-- ==== Sys2Proof/Word.lean ====
section
/-! DEFINITION. The word types of the block: bytes, and the 32-bit words of the host port (10_state.md R40). -/

namespace Sys2Proof

/-- A byte: every access of the block moves exactly one (20_memory.md R60, R69). -/
abbrev Byte := BitVec 8

/-- The widest host register, OFFSET or FRAME (10_state.md R40, R46). -/
abbrev Word := BitVec 32

end Sys2Proof
end

