-- ==== Sys2Proof/Config.lean ====
section
/-! DEFINITION. The parameters of the block (00_scope.md R7): the fixed ones as constants, the OPEN and decided ones as
fields of one record. The record stands in State (field cfg) and no step writes it: log entry 1. -/

namespace Sys2Proof

/-- PAGE_COUNT (00_scope.md R7, fixed). -/
abbrev pageCount : Nat := 8

/-- DISPLAY_W: columns of the display and bytes of a page (00_scope.md R7, fixed). -/
abbrev displayW : Nat := 128

/-- FB_SIZE (00_scope.md R7, fixed; K1 of R8 relates it to the two above). -/
abbrev fbSize : Nat := 1024

/-- TXBUF_MAX, the control byte included (00_scope.md R7, D29). -/
abbrev txbufMax : Nat := 4

/-- BYTE_OFF (00_scope.md R7, fixed). -/
abbrev byteOff : Byte := 0x00#8

/-- BYTE_ON (00_scope.md R7, fixed). -/
abbrev byteOn : Byte := 0xFF#8

/-- The configuration record: the parameters of 00_scope.md R7 that the source does not print (92_eei_decisions.md, open
parameters), SRC_W, which D12 makes a configuration field, and the stream, an immutable parameter (R15, 20_memory.md R62). -/
structure Config where
  /-- DEV_ADDR: the one device address (20_memory.md R65). -/
  devAddr : BitVec 7
  /-- CTRL_CMD_SINGLE (30_encoding.md R97). -/
  ctrlCmdSingle : Byte
  /-- CTRL_CMD_MULTI (30_encoding.md R98). -/
  ctrlCmdMulti : Byte
  /-- CTRL_DATA_SINGLE (30_encoding.md R99). -/
  ctrlDataSingle : Byte
  /-- CTRL_DATA_MULTI (30_encoding.md R100). -/
  ctrlDataMulti : Byte
  /-- CMD_SET_PAGE: base of the page command (30_encoding.md R103). -/
  cmdSetPage : Byte
  /-- CMD_COL_LO: base of the lower column command (30_encoding.md R104). -/
  cmdColLo : Byte
  /-- CMD_COL_HI: base of the upper column command (30_encoding.md R105). -/
  cmdColHi : Byte
  /-- INIT_SEQ: a list of transactions, control byte first (41_display_driver.md R162). -/
  initSeq : List (List Byte)
  /-- SRC_W: source pixels in a row of the frame (42_frame_decoder.md R193). -/
  srcW : Nat
  /-- STREAM, whose length is STREAM_LEN (20_memory.md R62). -/
  stream : List Byte
  /-- TOTAL_FRAMES (43_playback_scheduler.md R212). -/
  totalFrames : Nat
  deriving DecidableEq, Repr

/-- STREAM_LEN (00_scope.md R7). -/
def Config.streamLen (c : Config) : Nat := c.stream.length

/-- PIXEL_SCALE: framebuffer bytes written per source pixel (00_scope.md R7; `/` is exact under K2). -/
def Config.pixelScale (c : Config) : Nat := displayW / c.srcW

/-- Steps 1 to 5 of the default INIT_SEQ (41_display_driver.md R163, transactions 1 to 5). PRESUMED bytes (log entry 1). -/
def initSeqGeometry : List (List Byte) :=
  [[0x80, 0xAE], [0x00, 0x20, 0x02], [0x80, 0xB0], [0x00, 0xA8, 0x3F], [0x00, 0xD3, 0x00]]

/-- Steps 6 to 9 of the default INIT_SEQ (41_display_driver.md R163, transactions 6 to 11). PRESUMED bytes (log entry 1). -/
def initSeqPicture : List (List Byte) :=
  [[0x80, 0xA1], [0x80, 0xC8], [0x00, 0xDA, 0x12], [0x00, 0x81, 0x7F], [0x80, 0xA4], [0x80, 0xA6]]

/-- Steps 10 to 14 of the default INIT_SEQ (41_display_driver.md R163, transactions 12 to 16). PRESUMED bytes (log entry 1). -/
def initSeqPower : List (List Byte) :=
  [[0x00, 0xD5, 0x80], [0x00, 0xD9, 0x22], [0x00, 0xDB, 0x20], [0x00, 0x8D, 0x14], [0x80, 0xAF]]

/-- The default INIT_SEQ: sixteen transactions (41_display_driver.md R163). -/
def defaultInitSeq : List (List Byte) := initSeqGeometry ++ initSeqPicture ++ initSeqPower

/-- The default configuration: the spec's own defaults of the OPEN parameters (00_scope.md R7; PRESUMED, general knowledge
G1 to G5), SRC_W 32 (D12), and no animation loaded: an empty STREAM and TOTAL_FRAMES 1 (DESIGN CHOICE: the spec gives no
default for either; log entry 1). -/
def Config.standard : Config where
  devAddr := 0x3C
  ctrlCmdSingle := 0x80
  ctrlCmdMulti := 0x00
  ctrlDataSingle := 0xC0
  ctrlDataMulti := 0x40
  cmdSetPage := 0xB0
  cmdColLo := 0x00
  cmdColHi := 0x10
  initSeq := defaultInitSeq
  srcW := 32
  stream := []
  totalFrames := 1

end Sys2Proof
end

