-- ==== Sys2Proof/Machine/State.lean ====
section
/-! DEFINITION. The state of the block as plain data: everything 10_state.md R20 lists, the configuration (00_scope.md R7), and
what the other three agents will do (R14), held as data so that the step is a function (log entry 2). -/

namespace Sys2Proof.Machine

/-- Why a step stops with a fault: an access to an index the spec says does not exist (20_memory.md R71). The spec's own
fault verdicts (60_exceptions.md R243) are no such stop: they are recorded in the state (field fault), log entry 6. -/
inductive Fault where
  /-- STREAM_PAGE's loop reads FB at an index of FB_SIZE or more (20_memory.md R61, R71). Raised by the engine's read of FB,
  in states no run reaches (PAGE is below 8 there). Safe: the model stops where the spec gives no step. -/
  | fbIndex
  /-- TRANSACT's loop reads TXBUF at an index of TXBUF_MAX or more (20_memory.md R71). Raised by the engine's read of TXBUF,
  in states no run reaches (TXLEN is at most 4 there). Safe: the model stops where the spec gives no step. -/
  | txbufIndex
  deriving DecidableEq, Repr

/-- Why a step is refused: the spec gives the request no meaning, or the agent no such move. -/
inductive Refusal where
  /-- An instruction whose arm in exec has no meaning yet. Raised by exec alone. Safe. -/
  | notModelled (mnemonic : String)
  /-- A write of a reserved code to CMD (30_encoding.md R110). Raised by the host write. Safe: the spec refuses it. -/
  | reservedCode (code : Byte)
  /-- An access to a reserved register number (10_state.md R48). Raised by the host read and write. Safe: the spec refuses it. -/
  | reservedRegister (reg : Nat)
  /-- A configuration that fails K1, K2, K3 or K5 (00_scope.md R8). Raised by every step of such a machine. Safe: the spec
  refuses it. -/
  | illFormedConfig
  /-- A host access the spec gives HOST no move for: any but a read of STATUS while BUSY = 1 or TICK_EN = 1 (10_state.md R40,
  70_reset_and_hazards.md R272). Raised by the host read and write and by the start of a host operation. Unsafe where a
  real host breaks the rule (93_implementation_defined.md U8). -/
  | noMove
  /-- An address byte with direction read (40_bus_transport.md R146). Raised by the meaning of ADDR_READ. Safe: the block
  never sends one. -/
  | readTransfer
  /-- An address byte with another address than DEV_ADDR (20_memory.md R65). Raised by the meaning of ADDR_WRITE. Safe: the
  block never sends one. -/
  | otherAddress
  deriving DecidableEq, Repr

/-- A framebuffer: the listed bytes, addresses rising, none equal to what an unlisted address reads as (log entry 5). -/
abbrev Memory := List Host.Cell

/-- The events of the wire trace (00_scope.md R11): S, A(b), D(b), P. -/
inductive WireEvent where
  | start
  | addr (b : Byte)
  | data (b : Byte)
  | stop
  deriving DecidableEq, Repr

/-- AWAIT (10_state.md R49): which answer the engine is waiting for from BUS. -/
inductive Await where
  | none | addr | byte
  deriving DecidableEq, Repr

/-- The fault verdicts (60_exceptions.md R243). -/
inductive FaultCode where
  /-- FLT_TXLEN, code 1 (40_bus_transport.md R141). -/
  | txlen
  /-- FLT_NOT_INIT, code 2 (40_bus_transport.md R143, 43_playback_scheduler.md R220). -/
  | notInit
  /-- FLT_REINIT, code 3 (41_display_driver.md R164). -/
  | reinit
  /-- FLT_OVERRUN, code 4 (42_frame_decoder.md R196). -/
  | overrun
  /-- FLT_STREAM_END, code 5 (42_frame_decoder.md R197). -/
  | streamEnd
  deriving DecidableEq, Repr

/-- The points of the pseudocode the engine can stand at (10_state.md R27: SEQ has no encoding; a model represents it as it
likes). SEQ is the list of the points still to do, innermost first; the empty list is IDLE. -/
inductive Work where
  /-- First step of TRANSACT: the test of TXLEN (40_bus_transport.md R140). -/
  | transact
  /-- bus_start: the start request (R131). -/
  | start
  /-- The hold H_START (R131). -/
  | waitStart
  /-- bus_addr: the address byte (R132). -/
  | addr
  /-- The hold H_ADDR (R132). -/
  | waitAddr
  /-- TRANSACT: TXPTR <- 0 (R140). -/
  | txFirst
  /-- TRANSACT: the loop test and the byte at TXPTR (R140). -/
  | txLoop
  /-- TRANSACT: TXPTR <- TXPTR + 1 (R140). -/
  | txNext
  /-- The hold H_BTC (R133). -/
  | waitBtc
  /-- bus_stop (R137). -/
  | stop
  /-- First step of STREAM_PAGE: the test of INIT_DONE (R142). -/
  | streamPage
  /-- STREAM_PAGE: the control byte (R142). -/
  | pageCtrl
  /-- STREAM_PAGE: COL <- 0 (R142). -/
  | pageFirst
  /-- STREAM_PAGE: the loop test and the byte at COL (R142). -/
  | pageLoop
  /-- STREAM_PAGE: COL <- COL + 1 (R142). -/
  | pageNext
  /-- First step of INIT: the test of INIT_DONE, INITPTR <- 0 (41_display_driver.md R161). -/
  | init
  /-- INIT: the loop test, and the transaction at INITPTR put in TXBUF (R161). -/
  | initLoop
  /-- INIT: INITPTR <- INITPTR + 1 (R161). -/
  | initNext
  /-- First step of UPDATE: the test of INIT_DONE, PAGE <- 0 (R168). -/
  | update
  /-- UPDATE: the loop test (R168). -/
  | updateLoop
  /-- UPDATE: the page command put in TXBUF (R168). -/
  | setPage
  /-- UPDATE: the lower column command put in TXBUF (R168). -/
  | colLo
  /-- UPDATE: the upper column command put in TXBUF (R168). -/
  | colHi
  /-- UPDATE: PAGE <- PAGE + 1 (R168). -/
  | updateNext
  /-- CLEAR (R172). -/
  | clear
  /-- First step of DECODE, which is CLEAR (42_frame_decoder.md R191). -/
  | decode
  /-- DECODE: IDX <- 0 and COLOR <- 0 (R191). -/
  | decodeFirst
  /-- DECODE: the loop test and one run (R191). -/
  | decodeLoop
  /-- First step of TICK: the test of INIT_DONE, PLAYING <- 1 (43_playback_scheduler.md R211). -/
  | tick
  /-- TICK: the loop restart (R211, R212). -/
  | tickRestart
  /-- TICK: FRAME <- FRAME + 1 (R211, R213). -/
  | tickCount
  /-- TICK: TICK_PEND <- 0 (R211, R214). -/
  | tickClear
  /-- TICK: HB <- ~HB (R211, R214). -/
  | tickBeat
  /-- ARM (R216). -/
  | arm
  deriving DecidableEq, Repr

/-- The four bytes of TXBUF (20_memory.md R64). -/
structure TxBuf where
  b0 : Byte
  b1 : Byte
  b2 : Byte
  b3 : Byte
  deriving DecidableEq, Repr

/-- What BUS will do (40_bus_transport.md R138): its steps happen whenever enabled, or `n` more of them and then never again
(60_exceptions.md R240 to R242: a hang). `present` is the premise DevicePresent (R241). -/
inductive Device where
  | present
  | answers (n : Nat)
  deriving DecidableEq, Repr

/-- One move of HOST or TIMER, a line of a program (30_encoding.md R116): `W reg val`, `R reg`, `tick`. -/
inductive Move where
  | write (reg : Nat) (val : Word)
  | read (reg : Nat)
  | tick
  deriving DecidableEq, Repr

/-- When a line lands: once nothing else can move, or after so many more steps of ENGINE and BUS (log entry 2). -/
inductive Moment where
  | quiet
  | after (n : Nat)
  deriving DecidableEq, Repr

/-- A line of the program with the moment it lands at. -/
structure Line where
  moment : Moment
  move : Move
  deriving DecidableEq, Repr

/-- The complete state: 10_state.md R20 and ARG_PAGE (R45), then the model's own fields (log entries 1, 2, 23). -/
structure State where
  /-- The configuration (00_scope.md R7); no step writes it. -/
  cfg : Config
  /-- FB (10_state.md R21). -/
  fb : Memory
  /-- OFFSET (R22). -/
  offset : BitVec 32
  /-- FRAME (R23). -/
  frame : BitVec 32
  /-- IDX (R24). -/
  idx : BitVec 11
  /-- COLOR: true is "on" (R30). -/
  color : Bool
  /-- RUN (R24). -/
  run : BitVec 8
  /-- REM (R24), a natural number: log entry 18. -/
  rem : Nat
  /-- PAGE (R25). -/
  page : BitVec 4
  /-- COL (R25). -/
  col : BitVec 8
  /-- TXBUF (R26). -/
  txbuf : TxBuf
  /-- TXLEN (R26). -/
  txlen : BitVec 3
  /-- TXPTR (R26). -/
  txptr : BitVec 3
  /-- INITPTR (R26), a natural number: log entry 18. -/
  initptr : Nat
  /-- ARG_PAGE[2:0] (R45). -/
  argPage : BitVec 3
  /-- SEQ (R27). -/
  seq : List Work
  /-- BUSY (R38). -/
  busy : Bool
  /-- START_REQ (R31). -/
  startReq : Bool
  /-- F_START (R31). -/
  fStart : Bool
  /-- F_ADDR (R32). -/
  fAddr : Bool
  /-- F_BTC (R33). -/
  fBtc : Bool
  /-- IN_XACT (R49). -/
  inXact : Bool
  /-- AWAIT (R49). -/
  await : Await
  /-- TICK_PEND (R34). -/
  tickPend : Bool
  /-- TICK_EN (R35). -/
  tickEn : Bool
  /-- PLAYING (R36). -/
  playing : Bool
  /-- INIT_DONE (R37). -/
  initDone : Bool
  /-- HB (R39). -/
  hb : Bool
  /-- FAULT (R44). -/
  fault : Option FaultCode
  /-- WIRE, oldest event first (20_memory.md R66). -/
  wire : List WireEvent
  /-- What BUS will do: the model's own field. -/
  device : Device
  /-- What HOST and TIMER will do, next line first: the model's own field. -/
  script : List Line
  /-- What HOST's reads returned, oldest first: the model's own field. -/
  hostData : List Word
  deriving DecidableEq, Repr

/-- The machine right after reset (10_state.md R50, 70_reset_and_hazards.md R260). What R50 leaves unspecified holds the value
log entries 4 and 5 name; the configuration is log entry 1's; no program is loaded (log entry 9). -/
def State.reset : State where
  cfg := Config.standard
  fb := []
  offset := 0
  frame := 0
  idx := 0
  color := false
  run := 0
  rem := 0
  page := 0
  col := 0
  txbuf := ⟨0, 0, 0, 0⟩
  txlen := 0
  txptr := 0
  initptr := 0
  argPage := 0
  seq := []
  busy := false
  startReq := false
  fStart := false
  fAddr := false
  fBtc := false
  inXact := false
  await := .none
  tickPend := false
  tickEn := false
  playing := false
  initDone := false
  hb := false
  fault := none
  wire := []
  device := .present
  script := []
  hostData := []

end Sys2Proof.Machine
end

