-- ==== Sys2Proof/Machine/Flags.lean ====
section
/-! DEFINITION. The flags: the STATUS word (10_state.md R42), the tick flags (R34, R35) and the conditions that read them. -/

namespace Sys2Proof.Machine

/-- STATUS, 16 bits, every field a view of a flag (10_state.md R42); bit 7 and bits 15:12 read 0. -/
def State.status (s : State) : BitVec 16 :=
  0#4 ++ BitVec.ofBool s.inXact ++ BitVec.ofBool s.fBtc ++ BitVec.ofBool s.fAddr ++ BitVec.ofBool s.fStart ++
    0#1 ++ BitVec.ofBool s.color ++ BitVec.ofBool s.hb ++ BitVec.ofBool s.tickPend ++ BitVec.ofBool s.tickEn ++
    BitVec.ofBool s.playing ++ BitVec.ofBool s.initDone ++ BitVec.ofBool s.busy

/-- The step of TIMER (60_exceptions.md R231): TICK_PEND <- 1 if TICK_EN = 1, else nothing. -/
def tickIn (s : State) : State := { s with tickPend := s.tickPend || s.tickEn }

/-- When the engine takes the step accept_tick (60_exceptions.md R233). -/
def State.acceptable (s : State) : Bool := !s.busy && s.tickEn && s.tickPend && s.fault.isNone

/-- When HOST may start an operation and access a register other than STATUS (10_state.md R40, 60_exceptions.md R235). -/
def State.hostMay (s : State) : Bool := !s.busy && !s.tickEn

/-- No transaction is open: the bus flags are 0 and AWAIT is NONE (10_state.md R53, 40_bus_transport.md R147). -/
def State.busQuiet (s : State) : Bool :=
  !s.startReq && !s.fStart && !s.fAddr && !s.fBtc && !s.inXact && s.await == .none

end Sys2Proof.Machine
end

