-- ==== Sys2Proof/Syntax.lean ====
section
/-! DEFINITION. The instructions: one constructor per row of spec/opcode_table.json, in the table's order, with the row's
field letters as operands (30_encoding.md R120), and the format each row belongs to (R90). -/

namespace Sys2Proof

/-- The seven formats of the opcode table (30_encoding.md R90, R120). -/
inductive Format where
  | hostop8 | evt1 | addr8 | ctrl8 | dcmd8 | dcmd16 | rle8
  deriving DecidableEq, Repr

/-- One constructor per row of the opcode table. -/
inductive Instr where
  /-- CLEAR, host code 0x01 (41_display_driver.md R172). -/
  | clear
  /-- DECODE, host code 0x02 (42_frame_decoder.md R191). -/
  | decode
  /-- UPDATE, host code 0x03 (41_display_driver.md R168). -/
  | update
  /-- INIT, host code 0x04 (41_display_driver.md R161). -/
  | init
  /-- TRANSACT, host code 0x05 (40_bus_transport.md R140). -/
  | transact
  /-- STREAM_PAGE, host code 0x06 (40_bus_transport.md R142). -/
  | streamPage
  /-- ARM, host code 0x07 (43_playback_scheduler.md R216). -/
  | arm
  /-- TICK, the tick event (43_playback_scheduler.md R211, 30_encoding.md R119). -/
  | tick
  /-- The address byte with direction write (30_encoding.md R95). -/
  | addrWrite (a : BitVec 7)
  /-- The address byte with direction read, never sent (40_bus_transport.md R146). -/
  | addrRead (a : BitVec 7)
  /-- Control byte: one command byte follows (30_encoding.md R97). -/
  | ctrlCmdSingle
  /-- Control byte: command bytes up to the stop (30_encoding.md R98). -/
  | ctrlCmdMulti
  /-- Control byte: one display data byte follows (30_encoding.md R99). -/
  | ctrlDataSingle
  /-- Control byte: display data bytes up to the stop (30_encoding.md R100). -/
  | ctrlDataMulti
  /-- Set page start address (30_encoding.md R103). -/
  | dcSetPage (p : BitVec 3)
  /-- Lower nibble of the column start (30_encoding.md R104). -/
  | dcColLo (l : BitVec 4)
  /-- Upper nibble of the column start (30_encoding.md R105). -/
  | dcColHi (h : BitVec 4)
  /-- Display off (41_display_driver.md R174). -/
  | dcDisplayOff
  /-- Addressing mode (41_display_driver.md R175). -/
  | dcAddrMode (m : BitVec 2)
  /-- Multiplex ratio (41_display_driver.md R177). -/
  | dcMuxRatio (r : BitVec 6)
  /-- Display offset (41_display_driver.md R178). -/
  | dcDisplayOffset (o : BitVec 6)
  /-- Segment remap (41_display_driver.md R179). -/
  | dcSegRemap (g : BitVec 1)
  /-- COM scan direction (41_display_driver.md R179). -/
  | dcComScan (d : BitVec 1)
  /-- COM pin hardware configuration (41_display_driver.md R180). -/
  | dcComPins (a : BitVec 1) (b : BitVec 1)
  /-- Contrast level (41_display_driver.md R181). -/
  | dcContrast (c : BitVec 8)
  /-- Display follows RAM (41_display_driver.md R182). -/
  | dcDisplayRam
  /-- Normal, non-inverted display (41_display_driver.md R182). -/
  | dcNormal
  /-- Oscillator frequency and divider (41_display_driver.md R183). -/
  | dcOsc (f : BitVec 4) (d : BitVec 4)
  /-- Pre-charge period (41_display_driver.md R184). -/
  | dcPrecharge (b : BitVec 4) (a : BitVec 4)
  /-- VCOMH deselect level (41_display_driver.md R185). -/
  | dcVcomh (v : BitVec 3)
  /-- Charge pump (41_display_driver.md R186). -/
  | dcChargePump (e : BitVec 1)
  /-- Display on (41_display_driver.md R187). -/
  | dcDisplayOn
  /-- One run of the encoded stream (30_encoding.md R106). -/
  | run (n : BitVec 8)
  deriving DecidableEq, Repr

/-- The bytes of a format (30_encoding.md R91, R95, R96, R102, R106); the one bit of EVT1 is written as a byte (R119). -/
def Format.size : Format → Nat
  | .dcmd16 => 2
  | .hostop8 | .evt1 | .addr8 | .ctrl8 | .dcmd8 | .rle8 => 1

/-- The format of an instruction's row (30_encoding.md R120). -/
def Instr.format : Instr → Format
  | .clear | .decode | .update | .init | .transact | .streamPage | .arm => .hostop8
  | .tick => .evt1
  | .addrWrite _ | .addrRead _ => .addr8
  | .ctrlCmdSingle | .ctrlCmdMulti | .ctrlDataSingle | .ctrlDataMulti => .ctrl8
  | .dcSetPage _ | .dcColLo _ | .dcColHi _ | .dcDisplayOff | .dcSegRemap _ | .dcComScan _ => .dcmd8
  | .dcDisplayRam | .dcNormal | .dcDisplayOn => .dcmd8
  | .dcAddrMode _ | .dcMuxRatio _ | .dcDisplayOffset _ | .dcComPins _ _ | .dcContrast _ => .dcmd16
  | .dcOsc _ _ | .dcPrecharge _ _ | .dcVcomh _ | .dcChargePump _ => .dcmd16
  | .run _ => .rle8

end Sys2Proof
end

