-- ==== Sys2Proof/WellFormed.lean ====
section
/-! DEFINITION. The checks of the spec on instructions (30_encoding.md R104) and on configurations (00_scope.md R8, K1 to K5). -/

namespace Sys2Proof

/-- An instruction's operands are of the widths of its row by their types; the one further bound the spec states is that a
column start is 0 to 127 (30_encoding.md R104, R105), so its bits 7:4 are at most 7. -/
def Instr.wellFormed : Instr → Bool
  | .dcColHi h => decide (h.toNat ≤ 7)
  | _ => true

/-- K1 (00_scope.md R8): the framebuffer holds PAGE_COUNT pages of DISPLAY_W bytes. The geometry is fixed (R3), so this
holds of every configuration. -/
def geometryOk : Bool := fbSize == pageCount * displayW

/-- K2 (00_scope.md R8): SRC_W is at least 1 and divides DISPLAY_W, and PIXEL_SCALE is at least 1. -/
def Config.scaleOk (c : Config) : Bool :=
  decide (1 ≤ c.srcW) && displayW % c.srcW == 0 && decide (1 ≤ c.pixelScale)

/-- K3 (00_scope.md R8): TOTAL_FRAMES is 1 to 2^FRAME_W - 1 and STREAM_LEN is below 2^CURSOR_W. -/
def Config.countsOk (c : Config) : Bool :=
  decide (1 ≤ c.totalFrames) && decide (c.totalFrames < 2 ^ 32) && decide (c.streamLen < 2 ^ 32)

/-- K5 (00_scope.md R8): the low operand bits of the addressing commands are zero, and every transaction of INIT_SEQ has 1
to TXBUF_MAX bytes. The widths K5 names are those of the fields' types. -/
def Config.bytesOk (c : Config) : Bool :=
  c.cmdSetPage &&& 0x07#8 == 0x00#8 && c.cmdColLo &&& 0x0F#8 == 0x00#8 && c.cmdColHi &&& 0x0F#8 == 0x00#8 &&
    c.initSeq.all fun t => decide (1 ≤ t.length) && decide (t.length ≤ txbufMax)

/-- The configuration check (00_scope.md R8, K1, K2, K3 and K5): a configuration that fails it is refused. K4 is a premise,
not a check the hardware makes: `Config.streamOk`. -/
def Config.wf (c : Config) : Bool := geometryOk && c.scaleOk && c.countsOk && c.bytesOk

/-- `frame_len` of K4 (00_scope.md R8), asked to reach the frame's size exactly: the number of runs after which the bytes
written come to `need`, or none where a run passes it or the runs end first. -/
def exactFrameLen (scale need : Nat) : List Byte → Option Nat
  | [] => none
  | n :: rest =>
    if n.toNat * scale = need then some 1
    else if n.toNat * scale < need then (exactFrameLen scale (need - n.toNat * scale) rest).map (· + 1)
    else none

/-- `o_k` of K4 (00_scope.md R8): the stream offset at which frame number k starts, where the frames before it are exact. -/
def Config.frameStart (c : Config) : Nat → Option Nat
  | 0 => some 0
  | k + 1 =>
    match c.frameStart k with
    | none => none
    | some o => (exactFrameLen c.pixelScale fbSize (c.stream.drop o)).map (o + ·)

/-- K4, WellFormedStream (00_scope.md R8): TOTAL_FRAMES frames, each exact, and the last ends where the stream does. -/
def Config.streamOk (c : Config) : Bool := c.frameStart c.totalFrames == some c.streamLen

end Sys2Proof
end

