-- ==== Sys2Proof/Decode.lean ====
section
/-! DEFINITION. Decoding and encoding, one decoder per format (30_encoding.md R90, R120). The values of OPEN parameters (the
four control bytes, the three addressing commands) are taken from the configuration (R96, R103 to R105). -/

namespace Sys2Proof

/-- Why a decoder rejects bytes, by name. -/
inductive Reject where
  /-- No byte, or fewer bytes than the format has. -/
  | truncated
  /-- A host code that selects no operation (30_encoding.md R110). -/
  | reservedCode
  /-- Format EVT1 with its one bit 0: TICK_IN not raised (30_encoding.md R119). -/
  | noEvent
  /-- A byte that is none of the four control bytes (30_encoding.md R96). -/
  | notControl
  /-- A byte or pair of bytes that is no row of the command table (30_encoding.md R102). -/
  | unknownCommand
  deriving DecidableEq, Repr

/-- What a decoder answers: the instruction and the bytes after it, or a rejection. -/
inductive Decoded where
  | ok (i : Instr) (rest : List Byte)
  | rejected (r : Reject)
  deriving DecidableEq, Repr

/-- Format HOSTOP8 (30_encoding.md R91): all eight bits are the operation code. -/
def decodeHostOp (b : Byte) : Option Instr :=
  match b.toNat with
  | 1 => some .clear
  | 2 => some .decode
  | 3 => some .update
  | 4 => some .init
  | 5 => some .transact
  | 6 => some .streamPage
  | 7 => some .arm
  | _ => none

/-- Format EVT1 (30_encoding.md R119): the bit 1 stands for TICK_IN raised. -/
def decodeEvent (b : Byte) : Option Instr := if b.getLsbD 0 then some .tick else none

/-- Format ADDR8 (30_encoding.md R95): the address in bits 7:1, the direction in bit 0, write 0. -/
def decodeAddr (b : Byte) : Instr :=
  if b.getLsbD 0 then .addrRead (b.extractLsb' 1 7) else .addrWrite (b.extractLsb' 1 7)

/-- Format CTRL8 (30_encoding.md R96): the byte is compared with the four parameters. DESIGN CHOICE (log entry 28): where a
configuration gives two of them one value, the first of CMD_SINGLE, CMD_MULTI, DATA_SINGLE, DATA_MULTI is read. -/
def decodeCtrl (c : Config) (b : Byte) : Option Instr :=
  if b = c.ctrlCmdSingle then some .ctrlCmdSingle
  else if b = c.ctrlCmdMulti then some .ctrlCmdMulti
  else if b = c.ctrlDataSingle then some .ctrlDataSingle
  else if b = c.ctrlDataMulti then some .ctrlDataMulti
  else none

/-- The rows of format DCMD8 whose base byte is fixed in the table (30_encoding.md R102). -/
def decodeFixedCommand (b : Byte) : Option Instr :=
  if b = 0xAE#8 then some .dcDisplayOff
  else if b &&& 0xFE#8 = 0xA0#8 then some (.dcSegRemap (b.extractLsb' 0 1))
  else if b &&& 0xF7#8 = 0xC0#8 then some (.dcComScan (b.extractLsb' 3 1))
  else if b = 0xA4#8 then some .dcDisplayRam
  else if b = 0xA6#8 then some .dcNormal
  else if b = 0xAF#8 then some .dcDisplayOn
  else none

/-- Format DCMD8 (30_encoding.md R102): the three addressing commands by their parameters (R103 to R105), then the rest. DESIGN
CHOICE (log entry 28): R120 has the rows disjoint for the default bases; where other bases make rows share a byte, the page command
is read first, then the lower column, then the upper, then a row whose byte is fixed. -/
def decodeCommand8 (c : Config) (b : Byte) : Option Instr :=
  if b &&& 0xF8#8 = c.cmdSetPage then some (.dcSetPage (b.extractLsb' 0 3))
  else if b &&& 0xF0#8 = c.cmdColLo then some (.dcColLo (b.extractLsb' 0 4))
  else if b &&& 0xF0#8 = c.cmdColHi then some (.dcColHi (b.extractLsb' 0 4))
  else decodeFixedCommand b

/-- Format DCMD16 (30_encoding.md R102): the opcode byte, then its argument. -/
def decodeCommand16 (op arg : Byte) : Option Instr :=
  if op = 0x20#8 then if arg &&& 0xFC#8 = 0x00#8 then some (.dcAddrMode (arg.extractLsb' 0 2)) else none
  else if op = 0xA8#8 then if arg &&& 0xC0#8 = 0x00#8 then some (.dcMuxRatio (arg.extractLsb' 0 6)) else none
  else if op = 0xD3#8 then if arg &&& 0xC0#8 = 0x00#8 then some (.dcDisplayOffset (arg.extractLsb' 0 6)) else none
  else if op = 0xDA#8 then
    if arg &&& 0xCF#8 = 0x02#8 then some (.dcComPins (arg.extractLsb' 5 1) (arg.extractLsb' 4 1)) else none
  else if op = 0x81#8 then some (.dcContrast arg)
  else if op = 0xD5#8 then some (.dcOsc (arg.extractLsb' 4 4) (arg.extractLsb' 0 4))
  else if op = 0xD9#8 then some (.dcPrecharge (arg.extractLsb' 4 4) (arg.extractLsb' 0 4))
  else if op = 0xDB#8 then if arg &&& 0x8F#8 = 0x00#8 then some (.dcVcomh (arg.extractLsb' 4 3)) else none
  else if op = 0x8D#8 then if arg &&& 0xFB#8 = 0x10#8 then some (.dcChargePump (arg.extractLsb' 2 1)) else none
  else none

/-- A decoder's answer from an optional instruction and the name of the rejection. -/
def Decoded.ofOption (o : Option Instr) (rest : List Byte) (r : Reject) : Decoded :=
  match o with
  | some i => .ok i rest
  | none => .rejected r

/-- The decoder: total on any bytes, one format at a time (30_encoding.md R120). -/
def decode (c : Config) : Format → List Byte → Decoded
  | _, [] => .rejected .truncated
  | .hostop8, b :: rest => .ofOption (decodeHostOp b) rest .reservedCode
  | .evt1, b :: rest => .ofOption (decodeEvent b) rest .noEvent
  | .addr8, b :: rest => .ok (decodeAddr b) rest
  | .ctrl8, b :: rest => .ofOption (decodeCtrl c b) rest .notControl
  | .dcmd8, b :: rest => .ofOption (decodeCommand8 c b) rest .unknownCommand
  | .dcmd16, [_] => .rejected .truncated
  | .dcmd16, op :: arg :: rest => .ofOption (decodeCommand16 op arg) rest .unknownCommand
  | .rle8, b :: rest => .ok (.run b) rest

/-- The encoder, from the same tables (30_encoding.md R91, R95, R97 to R106): the bytes of an instruction, opcode byte
first. TICK's one bit is written as the byte 0x01 (R119: a placeholder). -/
def encode (c : Config) : Instr → List Byte
  | .clear => [0x01]
  | .decode => [0x02]
  | .update => [0x03]
  | .init => [0x04]
  | .transact => [0x05]
  | .streamPage => [0x06]
  | .arm => [0x07]
  | .tick => [0x01]
  | .addrWrite a => [a ++ 0#1]
  | .addrRead a => [a ++ 1#1]
  | .ctrlCmdSingle => [c.ctrlCmdSingle]
  | .ctrlCmdMulti => [c.ctrlCmdMulti]
  | .ctrlDataSingle => [c.ctrlDataSingle]
  | .ctrlDataMulti => [c.ctrlDataMulti]
  | .dcSetPage p => [c.cmdSetPage ||| p.setWidth 8]
  | .dcColLo l => [c.cmdColLo ||| l.setWidth 8]
  | .dcColHi h => [c.cmdColHi ||| h.setWidth 8]
  | .dcDisplayOff => [0xAE]
  | .dcAddrMode m => [0x20, 0#6 ++ m]
  | .dcMuxRatio r => [0xA8, 0#2 ++ r]
  | .dcDisplayOffset o => [0xD3, 0#2 ++ o]
  | .dcSegRemap g => [0b1010000#7 ++ g]
  | .dcComScan d => [0b1100#4 ++ d ++ 0#3]
  | .dcComPins a b => [0xDA, 0#2 ++ a ++ b ++ 0b0010#4]
  | .dcContrast n => [0x81, n]
  | .dcDisplayRam => [0xA4]
  | .dcNormal => [0xA6]
  | .dcOsc f d => [0xD5, f ++ d]
  | .dcPrecharge b a => [0xD9, b ++ a]
  | .dcVcomh v => [0xDB, 0#1 ++ v ++ 0#4]
  | .dcChargePump e => [0x8D, 0b00010#5 ++ e ++ 0#2]
  | .dcDisplayOn => [0xAF]
  | .run n => [n]

/-- The control byte the block puts before a command payload (30_encoding.md R101): single when it is one byte, multi when
it is two or three. -/
def commandControl (c : Config) (payload : List Byte) : Byte :=
  if payload.length = 1 then c.ctrlCmdSingle else c.ctrlCmdMulti

/-- One controller command as the block sends it: the payload of one transaction, behind its control byte (30_encoding.md
R101, R102). -/
def commandTransaction (c : Config) (payload : List Byte) : List Byte := commandControl c payload :: payload

/-- The controller command that a transaction of INIT_SEQ is, if it is one of the command table's rows behind the control
byte R101 chooses for it; other transactions are bytes the block sends as they are (41_display_driver.md R162). -/
def decodeTransaction (c : Config) (t : List Byte) : Option Instr :=
  let found := match t with
    | [_, b] => decodeCommand8 c b
    | [_, op, arg] => decodeCommand16 op arg
    | _ => none
  match found with
  | some i => if commandTransaction c (encode c i) = t then some i else none
  | none => none

/-- The instruction of an eight-bit word whose format is not said: the rows of the table in the order of their masks, the
row with most fixed bits first (log entry 10: the seven formats share the eight-bit words, and R120 gives each its own
decoder; a word alone does not say its format). -/
def decodeByteAlone (b : Byte) : Instr :=
  match decodeHostOp b with
  | some i => i
  | none =>
    match decodeCtrl Config.standard b with
    | some i => i
    | none =>
      match decodeCommand8 Config.standard b with
      | some i => i
      | none => decodeAddr b

/-- The instruction of a table word (numbered as spec/opcode_table.json numbers it): 16 bits are a DCMD16 row, the opcode
byte in bits 15:8 (30_encoding.md R120); one bit is EVT1; 8 bits as `decodeByteAlone` says (log entry 10). -/
def decodeTableWord (nbits w : Nat) : Option Instr :=
  if nbits = 16 then decodeCommand16 (BitVec.ofNat 8 (w / 256)) (BitVec.ofNat 8 w)
  else if nbits = 8 then some (decodeByteAlone (BitVec.ofNat 8 w))
  else if nbits = 1 then decodeEvent (BitVec.ofNat 8 w)
  else none

end Sys2Proof
end

