-- ==== Sys2Proof/Machine/Operands.lean ====
section
/-! DEFINITION. Operand forms: the address byte, the addressing commands, a run's length in framebuffer bytes, the color byte,
the bytes of TXBUF, the framebuffer index of a page and column. -/

namespace Sys2Proof.Machine

/-- The address byte with direction write: `(DEV_ADDR << 1) | 0` (30_encoding.md R95). -/
def addressByte (c : Config) : Byte := c.devAddr ++ 0#1

/-- `CMD_SET_PAGE | p` (30_encoding.md R103). -/
def setPageByte (c : Config) (p : BitVec 4) : Byte := c.cmdSetPage ||| p.setWidth 8

/-- The framebuffer bytes a run writes: `N x PIXEL_SCALE` (30_encoding.md R106). -/
def runBytes (c : Config) (n : Byte) : Nat := n.toNat * c.pixelScale

/-- The byte a color writes (10_state.md R30). -/
def colorByte (on : Bool) : Byte := if on then byteOn else byteOff

/-- The framebuffer index of page p, column c: `p x DISPLAY_W + c` (20_memory.md R61). -/
def fbIndex (p : BitVec 4) (c : BitVec 8) : Nat := p.toNat * displayW + c.toNat

/-- `TXBUF[i]`, for i below TXBUF_MAX (20_memory.md R64, R71). -/
def TxBuf.get? (t : TxBuf) : Nat → Option Byte
  | 0 => some t.b0
  | 1 => some t.b1
  | 2 => some t.b2
  | 3 => some t.b3
  | _ => none

/-- `TXBUF[i] <- v`, for i below TXBUF_MAX; no other index is ever written (20_memory.md R71). -/
def TxBuf.set (t : TxBuf) (i : Nat) (v : Byte) : TxBuf :=
  match i with
  | 0 => { t with b0 := v }
  | 1 => { t with b1 := v }
  | 2 => { t with b2 := v }
  | 3 => { t with b3 := v }
  | _ => t

/-- The bytes put in TXBUF from index `i` up, in order (41_display_driver.md R161); bytes beyond them stay. -/
def TxBuf.load (t : TxBuf) (i : Nat) : List Byte → TxBuf
  | [] => t
  | v :: rest => (t.set i v).load (i + 1) rest

/-- The first `n` bytes of TXBUF in index order (20_memory.md R64): what a TRANSACT of TXLEN = n sends. -/
def TxBuf.bytes (t : TxBuf) (n : Nat) : List Byte := [t.b0, t.b1, t.b2, t.b3].take n

end Sys2Proof.Machine
end

