-- ==== Sys2Proof/Machine/Ops.lean ====
section
/-! DEFINITION. The named operations over memory, registers and the bus: the framebuffer, fault verdicts (the block's one way of
taking an exception, 60_exceptions.md R243) and the end of an operation (R236), the four bus primitives
(40_bus_transport.md R131 to R137), the three steps of BUS (R134 to R136), one run of DECODE, the host's register reads. -/

namespace Sys2Proof.Machine

/-! ### The framebuffer (20_memory.md R61, R71) -/

/-- What a byte of FB that is not listed reads as. DESIGN CHOICE, log entry 5: FB at reset is unspecified (10_state.md R50). -/
def fbUnlisted : Byte := 0x00#8

/-- The byte at index `i`. -/
def Memory.read : Memory → Nat → Byte
  | [], _ => fbUnlisted
  | (a, b) :: rest, i => if a = i then b else if i < a then fbUnlisted else Memory.read rest i

/-- The byte at index `i` replaced by `v`, in the canonical form: a byte equal to what an unlisted one reads as is not listed. -/
def Memory.write : Memory → Nat → Byte → Memory
  | [], i, v => if v = fbUnlisted then [] else [(i, v)]
  | (a, b) :: rest, i, v =>
    if i < a then if v = fbUnlisted then (a, b) :: rest else (i, v) :: (a, b) :: rest
    else if i = a then if v = fbUnlisted then rest else (i, v) :: rest
    else (a, b) :: Memory.write rest i v

/-- `n` bytes from index `i` upward all replaced by `v`, one at a time (42_frame_decoder.md R191, the inner loop). -/
def Memory.fill (m : Memory) (i : Nat) (v : Byte) : Nat → Memory
  | 0 => m
  | n + 1 => Memory.fill (m.write i v) (i + 1) v n

/-- The canonical form from address `lo` up: addresses rise, lie in FB, and no byte is the unlisted one. -/
def Memory.wfFrom (lo : Nat) : Memory → Bool
  | [] => true
  | (a, b) :: rest => decide (lo ≤ a) && decide (a < fbSize) && b != fbUnlisted && Memory.wfFrom (a + 1) rest

/-- The canonical form of a framebuffer. -/
def Memory.wf (m : Memory) : Bool := m.wfFrom 0

/-- `MemRead(FB, i, 1)`: requires i < FB_SIZE (20_memory.md R71). -/
def readFb (s : State) (i : Nat) : Option Byte := if i < fbSize then some (s.fb.read i) else none

/-! ### Fault verdicts, and moving along the pseudocode -/

/-- raise Fault(code) (60_exceptions.md R243): FAULT takes the code if it is NONE; the engine stays where it is. -/
def raiseFault (code : FaultCode) (s : State) : State := { s with fault := s.fault.or (some code) }

/-- The code number of a verdict (60_exceptions.md R243). -/
def FaultCode.number : FaultCode → Nat
  | .txlen => 1
  | .notInit => 2
  | .reinit => 3
  | .overrun => 4
  | .streamEnd => 5

/-- The engine goes on with `k`; where nothing is left the outermost operation has ended, and SEQ <- IDLE, BUSY <- 0 are part
of this step (60_exceptions.md R236). -/
def goOn (k : List Work) (s : State) : State := { s with seq := k, busy := !k.isEmpty }

/-- An operation starts: BUSY <- 1 and SEQ at its first step (60_exceptions.md R233, R235). -/
def begin (w : Work) (s : State) : State := { s with seq := [w], busy := true }

/-- Engine work is done only while FAULT = NONE (60_exceptions.md R243). -/
def whenRunning (s : State) (o : Host.Outcome State Fault Refusal) : Host.Outcome State Fault Refusal :=
  if s.fault.isNone then o else .next s

/-! ### The bus primitives (40_bus_transport.md), each up to its hold, with `k` what follows the hold -/

/-- bus_start (R131): START_REQ <- 1, then H_START. -/
def busStart (k : List Work) (s : State) : State := { s with startReq := true, seq := .waitStart :: k, busy := true }

/-- bus_addr (R132): the address byte goes out, then H_ADDR. -/
def busAddr (k : List Work) (s : State) : State :=
  { s with fStart := false, wire := s.wire ++ [.addr (addressByte s.cfg)], await := .addr, seq := .waitAddr :: k, busy := true }

/-- bus_byte(b) (R133): the byte goes out, then H_BTC. -/
def busByte (b : Byte) (k : List Work) (s : State) : State :=
  { s with fAddr := false, fBtc := false, wire := s.wire ++ [.data b], await := .byte, seq := .waitBtc :: k, busy := true }

/-- bus_stop (R137): the stop condition goes out; no hold. -/
def busStop (k : List Work) (s : State) : State :=
  goOn k { s with fBtc := false, wire := s.wire ++ [.stop], inXact := false }

/-- The bytes of one TRANSACT put in TXBUF and TXLEN (41_display_driver.md R161, R168). -/
def loadTx (bytes : List Byte) (s : State) : State :=
  { s with txlen := BitVec.ofNat 3 bytes.length, txbuf := s.txbuf.load 0 bytes }

/-- TRANSACT next, then `k`. -/
def callTransact (k : List Work) (s : State) : State := { s with seq := .transact :: k, busy := true }

/-! ### BUS (40_bus_transport.md R134 to R138) -/

/-- BUS still takes steps. -/
def Device.willing : Device → Bool
  | .present => true
  | .answers n => decide (0 < n)

/-- BUS has taken one step. -/
def Device.used : Device → Device
  | .present => .present
  | .answers n => .answers (n - 1)

/-- `grant` is enabled (R134). -/
def State.grantEnabled (s : State) : Bool := s.startReq && !s.inXact

/-- A step of BUS is enabled and BUS takes it. -/
def State.busReady (s : State) : Bool := s.device.willing && (s.grantEnabled || s.await != .none)

/-- The enabled step of BUS: grant (R134), addr_ack (R135) or byte_done (R136). Where more than one were enabled, which no run
meets, grant goes first (log entry 15). -/
def busStep (s : State) : State :=
  if s.grantEnabled then
    { s with wire := s.wire ++ [.start], startReq := false, inXact := true, fStart := true, device := s.device.used }
  else
    match s.await with
    | .addr => { s with await := .none, fAddr := true, device := s.device.used }
    | .byte => { s with await := .none, fBtc := true, device := s.device.used }
    | .none => s

/-! ### CLEAR and one run of DECODE -/

/-- CLEAR (41_display_driver.md R172): every byte of FB becomes 0x00, IDX ends at FB_SIZE. The canonical framebuffer whose
bytes are all 0x00 lists nothing, since an unlisted byte reads as 0x00. -/
def clearFb (s : State) : State := { s with fb := [], idx := BitVec.ofNat 11 fbSize }

/-- One turn of DECODE's loop on the run byte `n` (42_frame_decoder.md R191): OFFSET advances, REM is the run's bytes; past
the end of FB it is FLT_OVERRUN with nothing written (R196); else the bytes are written and COLOR flips. -/
def decodeRun (n : Byte) (s : State) : State :=
  let r := { s with run := n, offset := s.offset + 1, rem := runBytes s.cfg n }
  if fbSize < s.idx.toNat + runBytes s.cfg n then raiseFault .overrun r
  else { r with fb := s.fb.fill s.idx.toNat (colorByte s.color) (runBytes s.cfg n),
                idx := BitVec.ofNat 11 (s.idx.toNat + runBytes s.cfg n), rem := 0, color := !s.color }

/-! ### The host's registers (10_state.md R40 to R48) -/

/-- The value a read of register `reg` returns, widened with zeros; none for a reserved number (R48). -/
def readReg (s : State) (reg : Nat) : Option Word :=
  match reg with
  | 0 => some 0
  | 1 => some (s.status.setWidth 32)
  | 3 => some (s.argPage.setWidth 32)
  | 4 => some (s.txlen.setWidth 32)
  | 5 => some (s.txbuf.b0.setWidth 32)
  | 6 => some (s.txbuf.b1.setWidth 32)
  | 7 => some (s.txbuf.b2.setWidth 32)
  | 8 => some (s.txbuf.b3.setWidth 32)
  | 9 => some s.offset
  | 10 => some s.frame
  | r => if 1024 ≤ r ∧ r < 2048 then some ((s.fb.read (r - 1024)).setWidth 32) else none

/-- A write of register `reg` other than CMD: the state after it; none for a reserved number (R48). A register narrower than
the port takes the low bits of the value (log entry 8); STATUS ignores writes (R42). -/
def writeReg (s : State) (reg : Nat) (v : Word) : Option State :=
  match reg with
  | 1 => some s
  | 3 => some { s with argPage := v.setWidth 3 }
  | 4 => some { s with txlen := v.setWidth 3 }
  | 5 => some { s with txbuf := s.txbuf.set 0 (v.setWidth 8) }
  | 6 => some { s with txbuf := s.txbuf.set 1 (v.setWidth 8) }
  | 7 => some { s with txbuf := s.txbuf.set 2 (v.setWidth 8) }
  | 8 => some { s with txbuf := s.txbuf.set 3 (v.setWidth 8) }
  | 9 => some { s with offset := v }
  | 10 => some { s with frame := v }
  | r => if 1024 ≤ r ∧ r < 2048 then some { s with fb := s.fb.write (r - 1024) (v.setWidth 8) } else none

/-- A read by HOST: STATUS at any time, every other register only while HOST may (R40); the value goes to HOST. -/
def hostRead (reg : Nat) (s : State) : Host.Outcome State Fault Refusal :=
  if reg ≠ 1 ∧ s.hostMay = false then .refused .noMove
  else
    match readReg s reg with
    | some v => .next { s with hostData := s.hostData ++ [v] }
    | none => .refused (.reservedRegister reg)

end Sys2Proof.Machine
end

