-- ==== Sys2Proof/Machine/Engine.lean ====
section
/-! DEFINITION. The engine's steps along the pseudocode (40_bus_transport.md R140, R142; 41_display_driver.md R161, R168, R172;
42_frame_decoder.md R191; 43_playback_scheduler.md R211, R216), the moves of the other agents that land while it runs, and
running an operation until it ends, hangs or faults (log entries 3, 14). -/

namespace Sys2Proof.Machine

/-- The engine can take a step (00_scope.md R12, 60_exceptions.md R240, R243): FAULT = NONE, an operation is running, and it is
not at a hold whose condition is still false. -/
def State.engineReady (s : State) : Bool :=
  s.fault.isNone &&
    match s.seq with
    | [] => false
    | .waitStart :: _ => s.fStart
    | .waitAddr :: _ => s.fAddr
    | .waitBtc :: _ => s.fBtc
    | _ :: _ => true

/-- The engine's step at the point `w`, with `k` the points after it. -/
def engineAt (w : Work) (k : List Work) (s : State) : Host.Outcome State Fault Refusal :=
  match w with
  -- TRANSACT (R140)
  | .transact =>
    if s.txlen.toNat < 1 ∨ txbufMax < s.txlen.toNat then .next (raiseFault .txlen s)
    else .next (goOn (.start :: .addr :: .txFirst :: .stop :: k) s)
  | .start => .next (busStart k s)
  | .waitStart => if s.fStart then .next (goOn k s) else .next s
  | .addr => .next (busAddr k s)
  | .waitAddr => if s.fAddr then .next (goOn k s) else .next s
  | .txFirst => .next (goOn (.txLoop :: k) { s with txptr := 0 })
  | .txLoop =>
    if s.txptr.toNat < s.txlen.toNat then
      match s.txbuf.get? s.txptr.toNat with
      | some b => .next (busByte b (.txNext :: k) s)
      | none => .fault .txbufIndex
    else .next (goOn k s)
  | .txNext => .next (goOn (.txLoop :: k) { s with txptr := s.txptr + 1 })
  | .waitBtc => if s.fBtc then .next (goOn k s) else .next s
  | .stop => .next (busStop k s)
  -- STREAM_PAGE (R142)
  | .streamPage =>
    if s.initDone then .next (goOn (.start :: .addr :: .pageCtrl :: .pageFirst :: .stop :: k) s)
    else .next (raiseFault .notInit s)
  | .pageCtrl => .next (busByte s.cfg.ctrlDataMulti k s)
  | .pageFirst => .next (goOn (.pageLoop :: k) { s with col := 0 })
  | .pageLoop =>
    if s.col.toNat < displayW then
      match readFb s (fbIndex s.page s.col) with
      | some b => .next (busByte b (.pageNext :: k) s)
      | none => .fault .fbIndex
    else .next (goOn k s)
  | .pageNext => .next (goOn (.pageLoop :: k) { s with col := s.col + 1 })
  -- INIT (R161)
  | .init =>
    if s.initDone then .next (raiseFault .reinit s) else .next (goOn (.initLoop :: k) { s with initptr := 0 })
  | .initLoop =>
    match s.cfg.initSeq[s.initptr]? with
    | some t => .next (callTransact (.initNext :: k) (loadTx t s))
    | none => .next (goOn k { s with initDone := true })
  | .initNext => .next (goOn (.initLoop :: k) { s with initptr := s.initptr + 1 })
  -- UPDATE (R168)
  | .update =>
    if s.initDone then .next (goOn (.updateLoop :: k) { s with page := 0 }) else .next (raiseFault .notInit s)
  | .updateLoop =>
    if s.page.toNat < pageCount then
      .next (goOn (.setPage :: .colLo :: .colHi :: .streamPage :: .updateNext :: k) s)
    else .next (goOn k s)
  | .setPage => .next (callTransact k (loadTx [s.cfg.ctrlCmdSingle, setPageByte s.cfg s.page] s))
  | .colLo => .next (callTransact k (loadTx [s.cfg.ctrlCmdSingle, s.cfg.cmdColLo] s))
  | .colHi => .next (callTransact k (loadTx [s.cfg.ctrlCmdSingle, s.cfg.cmdColHi] s))
  | .updateNext => .next (goOn (.updateLoop :: k) { s with page := s.page + 1 })
  -- CLEAR (R172) and DECODE (R191)
  | .clear => .next (goOn k (clearFb s))
  | .decode => .next (goOn (.clear :: .decodeFirst :: k) s)
  | .decodeFirst => .next (goOn (.decodeLoop :: k) { s with idx := 0, color := false })
  | .decodeLoop =>
    if s.idx.toNat < fbSize then
      match s.cfg.stream[s.offset.toNat]? with
      | some n => .next (decodeRun n s)
      | none => .next (raiseFault .streamEnd s)
    else .next (goOn k s)
  -- TICK (R211)
  | .tick =>
    if s.initDone then
      .next (goOn (.tickRestart :: .decode :: .update :: .tickCount :: .tickClear :: .tickBeat :: k)
        { s with playing := true })
    else .next (raiseFault .notInit s)
  | .tickRestart =>
    .next (goOn k (if s.frame.toNat = s.cfg.totalFrames then { s with offset := 0, frame := 0 } else s))
  | .tickCount => .next (goOn k { s with frame := s.frame + 1 })
  | .tickClear => .next (goOn k { s with tickPend := false })
  | .tickBeat => .next (goOn k { s with hb := !s.hb })
  -- ARM (R216)
  | .arm => .next (goOn k { s with tickEn := true })

/-- The engine's next step. -/
def engine (s : State) : Host.Outcome State Fault Refusal :=
  match s.seq with
  | [] => .next s
  | w :: k => engineAt w k s

/-! ### The moves of HOST and TIMER (30_encoding.md R116) -/

/-- The next line's moment has come (log entry 2). -/
def State.lineDue (s : State) : Bool :=
  match s.script with
  | ⟨.after 0, _⟩ :: _ => true
  | _ => false

/-- One step of ENGINE or BUS passes for the next line. -/
def countdown (s : State) : State :=
  match s.script with
  | ⟨.after (n + 1), m⟩ :: rest => { s with script := ⟨.after n, m⟩ :: rest }
  | _ => s

/-- accept_tick (60_exceptions.md R233): BUSY <- 1 and SEQ at the first step of TICK. It is a step of ENGINE, so that it brings the
next line one step nearer; TICK_PEND stays. -/
def acceptTick (s : State) : State := begin .tick (countdown s)

/-- The tick is accepted and TICK has not taken its first step (R233). -/
def State.tickAccepted (s : State) : Bool := s.fault.isNone && s.seq == [.tick]

/-- The move of a line that lands while an operation runs: a tick (60_exceptions.md R231) or a read of STATUS (R240); a write is
no move of HOST then (10_state.md R40). -/
def landBusy (m : Move) (s : State) : Host.Outcome State Fault Refusal :=
  match m with
  | .tick => .next (tickIn s)
  | .read reg => hostRead reg s
  | .write _ _ => .refused .noMove

/-- One step of ENGINE, or of BUS where the engine has none. -/
def advance (s : State) : Host.Outcome State Fault Refusal :=
  if s.engineReady then engine (countdown s) else .next (busStep (countdown s))

/-! ### Running an operation -/

/-- The engine runs, with BUS and the lines that come due, until no more than `depth` points of SEQ are left, or nothing can
move (a hang or a fault verdict), or `fuel` steps are taken (log entry 14). -/
def drive : Nat → Nat → State → Host.Outcome State Fault Refusal
  | 0, _, s => .next s
  | fuel + 1, depth, s =>
    if s.seq.length ≤ depth then .next s
    else
      match s.script with
      | ⟨.after 0, m⟩ :: rest =>
        match landBusy m { s with script := rest } with
        | .next t => drive fuel depth t
        | .fault r => .fault r
        | .refused r => .refused r
      | _ =>
        if s.engineReady || s.busReady then
          match advance s with
          | .next t => drive fuel depth t
          | .fault r => .fault r
          | .refused r => .refused r
        else .next s

/-- More steps than any operation takes from this state (log entry 14): those of an UPDATE, of an INIT, of a DECODE, and one for
each line. -/
def State.fuel (s : State) : Nat :=
  8192 + 32 * s.cfg.initSeq.length + s.cfg.stream.length + s.script.length

/-- The operation whose first step is `w`, from an idle engine to its end (60_exceptions.md R235, R236). -/
def runOp (w : Work) (s : State) : Host.Outcome State Fault Refusal := drive s.fuel 0 (begin w s)

/-- A host operation (60_exceptions.md R235): it starts only while BUSY = 0 and TICK_EN = 0; at any other moment HOST has no
such move (10_state.md R40). -/
def hostOp (w : Work) (s : State) : Host.Outcome State Fault Refusal :=
  if s.hostMay then runOp w s else .refused .noMove

/-- One TRANSACT of `bytes`, run to its end inside whatever the engine is doing. -/
def runTransaction (bytes : List Byte) (s : State) : Host.Outcome State Fault Refusal :=
  drive s.fuel s.seq.length (callTransact s.seq (loadTx bytes s))

/-- One controller command as the payload of one command transaction (30_encoding.md R101, R102). -/
def sendCommand (payload : List Byte) (s : State) : Host.Outcome State Fault Refusal :=
  whenRunning s (runTransaction (commandTransaction s.cfg payload) s)

/-- One control byte sent as a data byte of the open transaction, up to H_BTC (30_encoding.md R96, 40_bus_transport.md R133). -/
def sendControl (b : Byte) (s : State) : Host.Outcome State Fault Refusal := whenRunning s (.next (busByte b s.seq s))

end Sys2Proof.Machine
end

