-- ==== Sys2Proof/Machine/Commands.lean ====
section
/-! DEFINITION. The meanings of formats DCMD8 and DCMD16 (30_encoding.md R102): the controller commands the block sends, each
the payload of one command transaction behind the control byte R101 chooses. The bytes are the encoder's; what the
device makes of them is outside the block (00_scope.md R6). -/

namespace Sys2Proof.Machine

/-- Set page start address (30_encoding.md R103). -/
def execDcSetPage (p : BitVec 3) (s : State) : Host.Outcome State Fault Refusal := sendCommand (encode s.cfg (.dcSetPage p)) s

/-- Lower nibble of the column start (30_encoding.md R104). -/
def execDcColLo (l : BitVec 4) (s : State) : Host.Outcome State Fault Refusal := sendCommand (encode s.cfg (.dcColLo l)) s

/-- Upper nibble of the column start (30_encoding.md R105). -/
def execDcColHi (h : BitVec 4) (s : State) : Host.Outcome State Fault Refusal := sendCommand (encode s.cfg (.dcColHi h)) s

/-- Display off (41_display_driver.md R174). -/
def execDcDisplayOff (s : State) : Host.Outcome State Fault Refusal := sendCommand (encode s.cfg .dcDisplayOff) s

/-- Addressing mode (41_display_driver.md R175). -/
def execDcAddrMode (m : BitVec 2) (s : State) : Host.Outcome State Fault Refusal := sendCommand (encode s.cfg (.dcAddrMode m)) s

/-- Multiplex ratio (41_display_driver.md R177). -/
def execDcMuxRatio (r : BitVec 6) (s : State) : Host.Outcome State Fault Refusal := sendCommand (encode s.cfg (.dcMuxRatio r)) s

/-- Display offset (41_display_driver.md R178). -/
def execDcDisplayOffset (o : BitVec 6) (s : State) : Host.Outcome State Fault Refusal := sendCommand (encode s.cfg (.dcDisplayOffset o)) s

/-- Segment remap (41_display_driver.md R179). -/
def execDcSegRemap (g : BitVec 1) (s : State) : Host.Outcome State Fault Refusal := sendCommand (encode s.cfg (.dcSegRemap g)) s

/-- COM scan direction (41_display_driver.md R179). -/
def execDcComScan (d : BitVec 1) (s : State) : Host.Outcome State Fault Refusal := sendCommand (encode s.cfg (.dcComScan d)) s

/-- COM pin hardware configuration (41_display_driver.md R180). -/
def execDcComPins (a : BitVec 1) (b : BitVec 1) (s : State) : Host.Outcome State Fault Refusal := sendCommand (encode s.cfg (.dcComPins a b)) s

/-- Contrast level (41_display_driver.md R181). -/
def execDcContrast (c : BitVec 8) (s : State) : Host.Outcome State Fault Refusal := sendCommand (encode s.cfg (.dcContrast c)) s

/-- Display follows RAM (41_display_driver.md R182). -/
def execDcDisplayRam (s : State) : Host.Outcome State Fault Refusal := sendCommand (encode s.cfg .dcDisplayRam) s

/-- Normal display (41_display_driver.md R182). -/
def execDcNormal (s : State) : Host.Outcome State Fault Refusal := sendCommand (encode s.cfg .dcNormal) s

/-- Oscillator frequency and divider (41_display_driver.md R183). -/
def execDcOsc (f : BitVec 4) (d : BitVec 4) (s : State) : Host.Outcome State Fault Refusal := sendCommand (encode s.cfg (.dcOsc f d)) s

/-- Pre-charge period (41_display_driver.md R184). -/
def execDcPrecharge (b : BitVec 4) (a : BitVec 4) (s : State) : Host.Outcome State Fault Refusal := sendCommand (encode s.cfg (.dcPrecharge b a)) s

/-- VCOMH deselect level (41_display_driver.md R185). -/
def execDcVcomh (v : BitVec 3) (s : State) : Host.Outcome State Fault Refusal := sendCommand (encode s.cfg (.dcVcomh v)) s

/-- Charge pump (41_display_driver.md R186). -/
def execDcChargePump (e : BitVec 1) (s : State) : Host.Outcome State Fault Refusal := sendCommand (encode s.cfg (.dcChargePump e)) s

/-- Display on (41_display_driver.md R187). -/
def execDcDisplayOn (s : State) : Host.Outcome State Fault Refusal := sendCommand (encode s.cfg .dcDisplayOn) s

end Sys2Proof.Machine
end

