-- ==== Sys2Proof/Machine/Framing.lean ====
section
/-! DEFINITION. The meanings of formats ADDR8 and CTRL8 (30_encoding.md R95, R96): the address byte and the control byte as the
engine sends them, each up to its hold (log entry 12). -/

namespace Sys2Proof.Machine

/-- ADDR_WRITE: bus_addr sends the address byte (40_bus_transport.md R132). The block sends DEV_ADDR and no other address
(20_memory.md R65; log entry 11). -/
def execAddrWrite (a : BitVec 7) (s : State) : Host.Outcome State Fault Refusal :=
  if a = s.cfg.devAddr then whenRunning s (.next (busAddr s.seq s)) else .refused .otherAddress

/-- ADDR_READ: no operation emits it and no rule gives it an effect (40_bus_transport.md R146; log entry 11). -/
def execAddrRead (_a : BitVec 7) (_s : State) : Host.Outcome State Fault Refusal := .refused .readTransfer

/-- CTRL_CMD_SINGLE (30_encoding.md R97). -/
def execCtrlCmdSingle (s : State) : Host.Outcome State Fault Refusal := sendControl s.cfg.ctrlCmdSingle s

/-- CTRL_CMD_MULTI (30_encoding.md R98). -/
def execCtrlCmdMulti (s : State) : Host.Outcome State Fault Refusal := sendControl s.cfg.ctrlCmdMulti s

/-- CTRL_DATA_SINGLE (30_encoding.md R99). -/
def execCtrlDataSingle (s : State) : Host.Outcome State Fault Refusal := sendControl s.cfg.ctrlDataSingle s

/-- CTRL_DATA_MULTI (30_encoding.md R100). -/
def execCtrlDataMulti (s : State) : Host.Outcome State Fault Refusal := sendControl s.cfg.ctrlDataMulti s

end Sys2Proof.Machine
end

