-- ==== Sys2Proof/Machine/HostOps.lean ====
section
/-! DEFINITION. The meanings of format HOSTOP8 (30_encoding.md R91): the operations HOST starts by writing CMD. Each runs from
its first step to its end, or to the hold at which BUS leaves it, or to its fault verdict. -/

namespace Sys2Proof.Machine

/-- CLEAR (41_display_driver.md R172). -/
def execClear (s : State) : Host.Outcome State Fault Refusal := hostOp .clear s

/-- DECODE (42_frame_decoder.md R191, R199): the cursor is in OFFSET. -/
def execDecode (s : State) : Host.Outcome State Fault Refusal := hostOp .decode s

/-- UPDATE (41_display_driver.md R168). -/
def execUpdate (s : State) : Host.Outcome State Fault Refusal := hostOp .update s

/-- INIT (41_display_driver.md R161). -/
def execInit (s : State) : Host.Outcome State Fault Refusal := hostOp .init s

/-- TRANSACT (40_bus_transport.md R140): the operands are in TXLEN and TXBUF. -/
def execTransact (s : State) : Host.Outcome State Fault Refusal := hostOp .transact s

/-- STREAM_PAGE (40_bus_transport.md R142): issued by HOST, PAGE <- ARG_PAGE[2:0] first (10_state.md R45). -/
def execStreamPage (s : State) : Host.Outcome State Fault Refusal :=
  if s.hostMay then runOp .streamPage { s with page := s.argPage.setWidth 4 } else .refused .noMove

/-- ARM (43_playback_scheduler.md R216). -/
def execArm (s : State) : Host.Outcome State Fault Refusal := hostOp .arm s

end Sys2Proof.Machine
end

