-- ==== Sys2Proof/Machine/RunLength.lean ====
section
/-! DEFINITION. The meaning of format RLE8 (30_encoding.md R106): one run of the encoded stream. -/

namespace Sys2Proof.Machine

/-- RUN: one turn of DECODE's loop (42_frame_decoder.md R191). -/
def execRun (n : BitVec 8) (s : State) : Host.Outcome State Fault Refusal := whenRunning s (.next (decodeRun n s))

end Sys2Proof.Machine
end

