-- ==== Sys2Proof/Machine/TickEvent.lean ====
section
/-! DEFINITION. The meaning of format EVT1 (30_encoding.md R119): the tick event. -/

namespace Sys2Proof.Machine

/-- The accepted tick is served: TICK (43_playback_scheduler.md R211) from its first step to its end, its hang or its verdict. -/
def serveTick (s : State) : Host.Outcome State Fault Refusal := drive s.fuel 0 s

/-- TICK: TICK_IN is raised (60_exceptions.md R231). Where that lets the engine accept it (R233) the tick is accepted and served,
and where one is accepted already it is served. Elsewhere the event is ignored or stays pending (R231, R234; log entry 20). -/
def execTick (s : State) : Host.Outcome State Fault Refusal :=
  if (tickIn s).acceptable then serveTick (acceptTick (tickIn s))
  else if s.tickAccepted then serveTick (tickIn s)
  else .next (tickIn s)

end Sys2Proof.Machine
end

