-- ==== Sys2Proof/Machine/Dispatch.lean ====
section
/-! DEFINITION. The dispatch: one arm per instruction, each one call of its meaning. -/

namespace Sys2Proof.Machine

def exec (i : Instr) (s : State) : Host.Outcome State Fault Refusal :=
  match i with
  | .clear => Sys2Proof.Machine.execClear s
  | .decode => Sys2Proof.Machine.execDecode s
  | .update => Sys2Proof.Machine.execUpdate s
  | .init => Sys2Proof.Machine.execInit s
  | .transact => Sys2Proof.Machine.execTransact s
  | .streamPage => Sys2Proof.Machine.execStreamPage s
  | .arm => Sys2Proof.Machine.execArm s
  | .tick => Sys2Proof.Machine.execTick s
  | .addrWrite a => Sys2Proof.Machine.execAddrWrite a s
  | .addrRead a => Sys2Proof.Machine.execAddrRead a s
  | .ctrlCmdSingle => Sys2Proof.Machine.execCtrlCmdSingle s
  | .ctrlCmdMulti => Sys2Proof.Machine.execCtrlCmdMulti s
  | .ctrlDataSingle => Sys2Proof.Machine.execCtrlDataSingle s
  | .ctrlDataMulti => Sys2Proof.Machine.execCtrlDataMulti s
  | .dcSetPage p => Sys2Proof.Machine.execDcSetPage p s
  | .dcColLo l => Sys2Proof.Machine.execDcColLo l s
  | .dcColHi h => Sys2Proof.Machine.execDcColHi h s
  | .dcDisplayOff => Sys2Proof.Machine.execDcDisplayOff s
  | .dcAddrMode m => Sys2Proof.Machine.execDcAddrMode m s
  | .dcMuxRatio r => Sys2Proof.Machine.execDcMuxRatio r s
  | .dcDisplayOffset o => Sys2Proof.Machine.execDcDisplayOffset o s
  | .dcSegRemap g => Sys2Proof.Machine.execDcSegRemap g s
  | .dcComScan d => Sys2Proof.Machine.execDcComScan d s
  | .dcComPins a b => Sys2Proof.Machine.execDcComPins a b s
  | .dcContrast c => Sys2Proof.Machine.execDcContrast c s
  | .dcDisplayRam => Sys2Proof.Machine.execDcDisplayRam s
  | .dcNormal => Sys2Proof.Machine.execDcNormal s
  | .dcOsc f d => Sys2Proof.Machine.execDcOsc f d s
  | .dcPrecharge b a => Sys2Proof.Machine.execDcPrecharge b a s
  | .dcVcomh v => Sys2Proof.Machine.execDcVcomh v s
  | .dcChargePump e => Sys2Proof.Machine.execDcChargePump e s
  | .dcDisplayOn => Sys2Proof.Machine.execDcDisplayOn s
  | .run n => Sys2Proof.Machine.execRun n s

end Sys2Proof.Machine
end

