-- ==== Sys2Proof/Machine/Fetch.lean ====
section
/-! DEFINITION. What a step runs next: the instruction the engine stands at inside an operation, the move of a line, and the
turn of the whole system (00_scope.md R14). The block fetches no program of its own (20_memory.md R60): the instructions are
found where the spec puts them, in the stream (10_state.md R28), in INIT_SEQ, in TXBUF and at CMD. -/

namespace Sys2Proof.Machine

/-- The instruction the engine stands at, where the next thing it does, sends or reads is a row of the opcode table: an accepted
tick (60_exceptions.md R233), the address byte (R132), the control byte of a transaction (R101, R142), an addressing command of UPDATE (R168), a transaction of INIT_SEQ
that is a controller command (R161; log entry 22), a run of the stream (R191). -/
def fetch (s : State) : Option Instr :=
  match s.seq with
  | [.tick] => some .tick
  | .addr :: _ => some (.addrWrite s.cfg.devAddr)
  | .pageCtrl :: _ => some .ctrlDataMulti
  | .txLoop :: _ =>
    if s.txptr.toNat = 0 ∧ 0 < s.txlen.toNat then decodeCtrl s.cfg s.txbuf.b0 else none
  | .setPage :: _ => if s.page.toNat < pageCount then some (.dcSetPage (s.page.setWidth 3)) else none
  | .colLo :: _ => some (.dcColLo 0)
  | .colHi :: _ => some (.dcColHi 0)
  | .initLoop :: _ =>
    match s.cfg.initSeq[s.initptr]? with
    | some t => decodeTransaction s.cfg t
    | none => none
  | .decodeLoop :: _ =>
    if s.idx.toNat < fbSize then
      match s.cfg.stream[s.offset.toNat]? with
      | some n =>
        match Sys2Proof.decode s.cfg .rle8 [n] with
        | .ok i _ => some i
        | .rejected _ => none
      | none => none
    else none
  | _ => none

/-- The engine moved past the point of the fetched instruction; what the instruction does comes before what is left. -/
def enter (s : State) : State :=
  match s.seq with
  | .addr :: k => { s with seq := k }
  | .pageCtrl :: k => { s with seq := k }
  | .txLoop :: k => { s with seq := .txNext :: k }
  | .setPage :: k => { s with seq := k }
  | .colLo :: k => { s with seq := k }
  | .colHi :: k => { s with seq := k }
  | .initLoop :: k => { s with seq := .initNext :: k }
  | _ => s

/-- A write by HOST (10_state.md R40, R41): only while HOST may; CMD starts the operation its code names, or refuses a reserved
code (30_encoding.md R110). `run` is exec. -/
def hostWrite (run : Instr → State → Host.Outcome State Fault Refusal) (reg : Nat) (v : Word) (s : State) :
    Host.Outcome State Fault Refusal :=
  if s.hostMay = false then .refused .noMove
  else if reg = 0 then
    match Sys2Proof.decode s.cfg .hostop8 [v.setWidth 8] with
    | .ok i _ => run i s
    | .rejected _ => .refused (.reservedCode (v.setWidth 8))
  else
    match writeReg s reg v with
    | some t => .next t
    | none => .refused (.reservedRegister reg)

/-- The next line lands. -/
def landLine (run : Instr → State → Host.Outcome State Fault Refusal) (s : State) : Host.Outcome State Fault Refusal :=
  match s.script with
  | [] => .next s
  | ⟨_, .tick⟩ :: rest => .next (tickIn { s with script := rest })
  | ⟨_, .read reg⟩ :: rest => hostRead reg { s with script := rest }
  | ⟨_, .write reg v⟩ :: rest => hostWrite run reg v { s with script := rest }

/-- HOST waits with this move until BUSY = 0 (70_reset_and_hazards.md R278): any but a tick and a read of STATUS. -/
def Move.waits : Move → Bool
  | .tick => false
  | .read reg => reg != 1
  | .write _ _ => true

/-- Nothing of the block or of BUS can move: the next line lands, unless it is HOST's and HOST waits for BUSY = 0. With no line
left the state stays: the block is quiescent, or hangs, or has stopped at a fault verdict (log entry 25). -/
def quietLine (run : Instr → State → Host.Outcome State Fault Refusal) (s : State) : Host.Outcome State Fault Refusal :=
  match s.script with
  | [] => .next s
  | l :: _ => if s.busy && l.move.waits then .next s else landLine run s

/-- One step inside an operation: the fetched instruction, or the engine's own step. TICK is a whole operation, which counts its
steps for the next line itself. -/
def operationTurn (run : Instr → State → Host.Outcome State Fault Refusal) (s : State) :
    Host.Outcome State Fault Refusal :=
  match fetch s with
  | some .tick => run .tick s
  | some i => run i (enter (countdown s))
  | none => engine (countdown s)

/-- One step of the system. The configuration check (00_scope.md R8); a line whose moment has come; ENGINE; BUS; the acceptance
of a pending tick, a step of its own (60_exceptions.md R233); the next line (log entries 2, 3). -/
def turn (run : Instr → State → Host.Outcome State Fault Refusal) (s : State) : Host.Outcome State Fault Refusal :=
  if s.cfg.wf = false then .refused .illFormedConfig
  else if s.lineDue then landLine run s
  else if s.engineReady then operationTurn run s
  else if s.busReady then .next (busStep (countdown s))
  else if s.acceptable then .next (acceptTick s)
  else quietLine run s

/-! ### Placing one instruction where the next step finds it (log entry 9) -/

/-- An idle block that HOST may use, with nothing due and nothing for BUS to do. -/
def idleFor (s : State) : State :=
  { s with seq := [], busy := false, tickEn := false, fault := none, startReq := false, await := .none, script := [] }

/-- The engine at the points `q` of an operation, with nothing due. -/
def standingAt (q : List Work) (s : State) : State := { s with seq := q, busy := true, fault := none, script := [] }

/-- HOST's next line writes `code` to CMD. -/
def placeCode (code : Word) (s : State) : State := { idleFor s with script := [⟨.quiet, .write 0 code⟩] }

/-- The engine at the control byte `b`, alone in TXBUF, of an open transaction. -/
def placeControl (b : Byte) (s : State) : State :=
  { standingAt [.txLoop, .stop] s with txptr := 0, txlen := 1, txbuf := s.txbuf.set 0 b, inXact := true, fAddr := true }

/-- The engine at the only transaction of INIT_SEQ, which is the command `payload`. -/
def placeCommand (payload : List Byte) (s : State) : State :=
  { standingAt [.initLoop] s with
    cfg := { s.cfg with initSeq := [commandTransaction s.cfg payload] }, initptr := 0, initDone := false }

/-- The state with the instruction where the next step finds it: at CMD, as an accepted tick, at its point of a transaction, in
INIT_SEQ, or in the stream. ADDR_READ has no such place (40_bus_transport.md R146) and the state stays. -/
def placeInstr (i : Instr) (s : State) : State :=
  match i with
  | .clear | .decode | .update | .init | .transact | .streamPage | .arm =>
    match encode s.cfg i with
    | b :: _ => placeCode (b.setWidth 32) s
    | [] => s
  | .tick => { standingAt [.tick] s with tickEn := true, tickPend := true }
  | .addrWrite a =>
    { standingAt [.addr, .txFirst, .stop] s with cfg := { s.cfg with devAddr := a }, fStart := true, inXact := true }
  | .addrRead _ => s
  | .ctrlCmdSingle => placeControl s.cfg.ctrlCmdSingle s
  | .ctrlCmdMulti => placeControl s.cfg.ctrlCmdMulti s
  | .ctrlDataSingle => placeControl s.cfg.ctrlDataSingle s
  | .ctrlDataMulti => placeControl s.cfg.ctrlDataMulti s
  | .run n =>
    { standingAt [.decodeLoop] s with cfg := { s.cfg with stream := [n] }, offset := 0, idx := 0, color := false }
  | _ => placeCommand (encode s.cfg i) s

end Sys2Proof.Machine
end

