-- ==== Sys2Proof/Machine/Step.lean ====
section
/-! DEFINITION. The step: one turn of the system, instructions run by exec. -/

namespace Sys2Proof.Machine

/-- One step of the machine (`turn`). -/
def step (s : State) : Host.Outcome State Fault Refusal := turn exec s

/-- The state with a table word where the next step finds it (`placeInstr`); a word that decodes to no instruction is written
to CMD (30_encoding.md R110). -/
def State.withFetchWord (s : State) (nbits w : Nat) : State :=
  match decodeTableWord nbits w with
  | some i => placeInstr i s
  | none => placeCode (BitVec.ofNat 32 w) s

end Sys2Proof.Machine
end

