-- ==== Sys2Proof/Machine/Panel.lean ====
section
/-! DEFINITION. The informative reference model of the display controller (41_display_driver.md R188), as a function of the wire
trace. It is no part of the block and no meaning depends on it; it exists so that R171 and R276 can be stated (log entry 19). -/

namespace Sys2Proof.Machine

/-- What the device makes of its next data byte (R188): nothing (not addressed, or between transactions), a control byte, one
byte after CO = 1, every byte up to the stop after CO = 0; `dc` is true for display data. -/
inductive PanelPhase where
  | deaf
  | control
  | single (dc : Bool)
  | multi (dc : Bool)
  deriving DecidableEq, Repr, Inhabited

/-- The state of the device (R188): GDDRAM as the bytes written so far, the newest first, PAGEPTR, COLPTR, MODE and ON; and where
it is in a transaction, with the opcode of a two-byte command whose argument is the next command byte (30_encoding.md R102). -/
structure Panel where
  /-- GDDRAM, the bytes written at (page, column). -/
  ram : List ((Nat × Nat) × Byte)
  /-- PAGEPTR. -/
  pagePtr : BitVec 3
  /-- COLPTR, eight bits because CMD_COL_HI writes bits 7:4. -/
  colPtr : BitVec 8
  /-- MODE: the argument of the addressing mode command. -/
  mode : BitVec 2
  /-- ON. -/
  on : Bool
  /-- What the next data byte is. -/
  phase : PanelPhase
  /-- The opcode that waits for its argument. -/
  opcode : Option Byte
  deriving DecidableEq, Repr, Inhabited

/-- Page addressing mode (41_display_driver.md R175): argument 0x02 of the addressing mode command. -/
abbrev pageMode : BitVec 2 := 2

/-- `GDDRAM[p][c]`; none where nothing was ever written (R188 leaves it unspecified). -/
def Panel.gddram (d : Panel) (p c : Nat) : Option Byte := (d.ram.find? fun e => e.1 == (p, c)).map (·.2)

/-- FREE VALUE (log entry 27): what becomes of GDDRAM and the pointers where R188 states no effect of a display data byte. -/
opaque Panel.unstated : Panel → Byte → Panel

/-- The opcode bytes that an argument byte follows: format DCMD16 (30_encoding.md R102). -/
def hasArgument (b : Byte) : Bool :=
  b == 0x20#8 || b == 0xA8#8 || b == 0xD3#8 || b == 0xDA#8 || b == 0x81#8 || b == 0xD5#8 || b == 0xD9#8 ||
    b == 0xDB#8 || b == 0x8D#8

/-- What a controller command does to the device (R188): the addressing commands move the pointers, the addressing mode command
sets MODE (41_display_driver.md R175), display off and on set ON (R174, R187), the others change nothing here. -/
def Panel.obey (d : Panel) : Instr → Panel
  | .dcSetPage p => { d with pagePtr := p }
  | .dcColLo n => { d with colPtr := d.colPtr.extractLsb' 4 4 ++ n }
  | .dcColHi n => { d with colPtr := n ++ d.colPtr.extractLsb' 0 4 }
  | .dcAddrMode m => { d with mode := m }
  | .dcDisplayOff => { d with on := false }
  | .dcDisplayOn => { d with on := true }
  | .dcMuxRatio _ | .dcDisplayOffset _ | .dcSegRemap _ | .dcComScan _ | .dcComPins _ _ | .dcContrast _ => d
  | .dcDisplayRam | .dcNormal | .dcOsc _ _ | .dcPrecharge _ _ | .dcVcomh _ | .dcChargePump _ => d
  | .clear | .decode | .update | .init | .transact | .streamPage | .arm | .tick | .addrWrite _ | .addrRead _ => d
  | .ctrlCmdSingle | .ctrlCmdMulti | .ctrlDataSingle | .ctrlDataMulti | .run _ => d

/-- A command byte (R188, 30_encoding.md R102): the argument of the opcode before it, a one-byte command, or the opcode of a
two-byte one. The addressing commands are the parameters' (R103 to R105), read before a two-byte opcode they share a byte with: log
entry 28. A byte that is no row changes nothing: log entry 19. -/
def Panel.command (c : Config) (d : Panel) (b : Byte) : Panel :=
  match d.opcode with
  | some op =>
    match decodeCommand16 op b with
    | some i => { d with opcode := none }.obey i
    | none => { d with opcode := none }
  | none =>
    match decodeCommand8 c b with
    | some i => d.obey i
    | none => if hasArgument b then { d with opcode := some b } else d

/-- A display data byte (R188): in page addressing mode it is stored at the pointers, and COLPTR goes on within the page. In another
mode, and at a COLPTR that is no column of the page, R188 states no effect: a free value (log entry 27). -/
def Panel.store (d : Panel) (b : Byte) : Panel :=
  if d.mode = pageMode ∧ d.colPtr.toNat < displayW then
    { d with ram := ((d.pagePtr.toNat, d.colPtr.toNat), b) :: d.ram,
             colPtr := BitVec.ofNat 8 ((d.colPtr.toNat + 1) % displayW) }
  else { d with ram := (d.unstated b).ram, pagePtr := (d.unstated b).pagePtr, colPtr := (d.unstated b).colPtr }

/-- A byte governed by a control byte. -/
def Panel.take (c : Config) (d : Panel) (dc : Bool) (b : Byte) : Panel := if dc then d.store b else d.command c b

/-- What a control byte selects (30_encoding.md R96 to R100): one of the four parameters says it by which it is; of any other byte
bits 7 and 6 are read (log entry 19). -/
def controlPhase (c : Config) (b : Byte) : PanelPhase :=
  match decodeCtrl c b with
  | some .ctrlCmdSingle => .single false
  | some .ctrlCmdMulti => .multi false
  | some .ctrlDataSingle => .single true
  | some .ctrlDataMulti => .multi true
  | _ => if b.getLsbD 7 then .single (b.getLsbD 6) else .multi (b.getLsbD 6)

/-- One event on the wires, for the device at DEV_ADDR (R188, 30_encoding.md R96). DESIGN CHOICE (log entry 19): an opcode whose
argument has not come when a transaction starts or ends is dropped, and inside a transaction it waits over a further control byte
and over display data; R188 and R102 do not say whether the device still waits. -/
def Panel.see (c : Config) (d : Panel) : WireEvent → Panel
  | .start => { d with phase := .deaf, opcode := none }
  | .addr b => { d with phase := if b = addressByte c then .control else .deaf }
  | .stop => { d with phase := .deaf, opcode := none }
  | .data b =>
    match d.phase with
    | .deaf => d
    | .control => { d with phase := controlPhase c b }
    | .single dc => { d.take c dc b with phase := .control }
    | .multi dc => d.take c dc b

/-- A wire trace, event by event. -/
def Panel.watch (c : Config) (d : Panel) : List WireEvent → Panel
  | [] => d
  | e :: rest => (d.see c e).watch c rest

end Sys2Proof.Machine
end

