-- ==== Sys2Proof/Safety.lean ====
section
/-! DEFINITION. The terms claims are stated in: the premises of the spec by name, the wire traces of the operations, the picture a
list of runs draws, and the invariant of the machine. -/

namespace Sys2Proof.Machine

/-! ### Premises -/

/-- The engine is idle, the tick is not armed and no verdict stands: HOST may start an operation (60_exceptions.md R235). -/
abbrev State.Idle (s : State) : Prop := s.seq = [] ∧ s.busy = false ∧ s.tickEn = false ∧ s.fault = none

/-- No line of the script lands while an operation runs: the next one waits until nothing else can move. -/
def State.undisturbed (s : State) : Bool :=
  match s.script with
  | ⟨.after _, _⟩ :: _ => false
  | _ => true

/-- The next line lands in this step: its moment has come, or neither ENGINE nor BUS can move. (At a hang or a verdict HOST still
waits with all but a read of STATUS: log entry 2.) -/
def State.lineLands (s : State) : Bool := s.lineDue || (!s.engineReady && !s.busReady && !s.acceptable)

/-- The premise DevicePresent (60_exceptions.md R241): every step of BUS that is enabled is taken. -/
abbrev State.DevicePresent (s : State) : Prop := s.device = .present

/-- An operation that starts here runs to its end unless it faults: no transaction is open, BUS answers, and no line lands. -/
abbrev State.Clear (s : State) : Prop := s.busQuiet = true ∧ s.DevicePresent ∧ s.undisturbed = true ∧ s.fault = none

/-- The engine is at a hold whose condition is false (60_exceptions.md R240). -/
def State.atHold (s : State) : Bool :=
  match s.seq with
  | .waitStart :: _ => !s.fStart
  | .waitAddr :: _ => !s.fAddr
  | .waitBtc :: _ => !s.fBtc
  | _ => false

/-- A quiescent state (70_reset_and_hazards.md R282): BUSY = 0, and no tick is both pending and enabled. -/
def State.quiescent (s : State) : Bool := !s.busy && !(s.tickEn && s.tickPend)

/-! ### Wire traces -/

/-- One completed transaction (30_encoding.md R93): S, the address byte, the data bytes, P. -/
def transactionTrace (c : Config) (bytes : List Byte) : List WireEvent :=
  .start :: .addr (addressByte c) :: (bytes.map WireEvent.data ++ [.stop])

/-- The trace of a completed INIT (41_display_driver.md R161). -/
def initTrace (c : Config) : List WireEvent := c.initSeq.flatMap (transactionTrace c)

/-- The DISPLAY_W bytes of page `p` in column order (20_memory.md R61). -/
def pageBytes (m : Memory) (p : Nat) : List Byte := (List.range displayW).map fun c => m.read (p * displayW + c)

/-- The trace of a completed STREAM_PAGE (40_bus_transport.md R142). -/
def pageTrace (c : Config) (m : Memory) (p : Nat) : List WireEvent :=
  transactionTrace c (c.ctrlDataMulti :: pageBytes m p)

/-- What a completed UPDATE sends for page `p` (41_display_driver.md R168). -/
def updatePageTrace (c : Config) (m : Memory) (p : Nat) : List WireEvent :=
  transactionTrace c [c.ctrlCmdSingle, c.cmdSetPage ||| BitVec.ofNat 8 p] ++
    transactionTrace c [c.ctrlCmdSingle, c.cmdColLo] ++ transactionTrace c [c.ctrlCmdSingle, c.cmdColHi] ++
    pageTrace c m p

/-- The trace of a completed UPDATE: the eight pages in increasing order (41_display_driver.md R168). -/
def updateTrace (c : Config) (m : Memory) : List WireEvent := (List.range pageCount).flatMap (updatePageTrace c m)

/-! ### The picture of a list of runs -/

/-- The framebuffer bytes a list of runs draws, the first in the color `on` and the colors alternating (42_frame_decoder.md R192,
R193). -/
def runPixels (scale : Nat) (on : Bool) : List Byte → List Byte
  | [] => []
  | n :: rest => List.replicate (n.toNat * scale) (colorByte on) ++ runPixels scale (!on) rest

/-- The framebuffer bytes a list of runs covers (30_encoding.md R106). -/
def runsTotal (scale : Nat) (runs : List Byte) : Nat := (runs.map fun n => n.toNat * scale).sum

/-- The runs that stand in the stream from offset `o` on, each read because the ones before it do not fill the frame
(42_frame_decoder.md R191, R195). -/
def runsAt (c : Config) (o : Nat) (runs : List Byte) : Prop :=
  (c.stream.drop o).take runs.length = runs ∧ ∀ j, j < runs.length → runsTotal c.pixelScale (runs.take j) < fbSize

/-- One frame of the stream: runs read from offset `o` that cover the framebuffer exactly (42_frame_decoder.md R195). -/
def frameAt (c : Config) (o : Nat) (runs : List Byte) : Prop :=
  runsAt c o runs ∧ runsTotal c.pixelScale runs = fbSize

/-- The framebuffer `m` shows the picture of the runs; beyond it a byte is 0x00, as CLEAR left it. -/
def shows (m : Memory) (scale : Nat) (runs : List Byte) : Prop :=
  ∀ i, i < fbSize → m.read i = (runPixels scale false runs).getD i byteOff

/-- `n` tick events, each raised when the block has done with the one before. -/
def serveTicks : Nat → State → Host.Outcome State Fault Refusal
  | 0, s => .next s
  | n + 1, s =>
    match exec .tick s with
    | .next t => serveTicks n t
    | .fault r => .fault r
    | .refused r => .refused r

/-! ### The invariant -/

/-- What every step keeps: the framebuffer is in its canonical form; BUSY = 1 exactly when SEQ is not IDLE (10_state.md R38); a
recorded verdict leaves BUSY = 1 (60_exceptions.md R243); IDX is at most FB_SIZE (10_state.md R24); a tick is pending only
when enabled (60_exceptions.md R231); PLAYING = 1 only after INIT (43_playback_scheduler.md R211). -/
structure State.Inv (s : State) : Prop where
  fb : s.fb.wf = true
  busy : s.busy = !s.seq.isEmpty
  fault : s.fault ≠ none → s.busy = true
  idx : s.idx.toNat ≤ fbSize
  pend : s.tickPend = true → s.tickEn = true
  playing : s.playing = true → s.initDone = true

end Sys2Proof.Machine
end

