-- ==== Sys2Proof/Certificates/Slice0/Obligations.lean ====
section
/-! DEFINITION. The statements for the provers. Each says which rule of spec/ it formalises; a statement that rests on a choice of
the model names the log entry. -/

section Statements

open Sys2Proof Sys2Proof.Machine

/-! ### Encodings -/

/-- Words of every format, written out from 30_encoding.md R91, R95 to R106, and what they decode to. -/
def Obligations.KnownWordsDecode : Prop :=
  decode Config.standard .hostop8 [0b00000100] = .ok .init [] ∧
  decode Config.standard .evt1 [0b1] = .ok .tick [] ∧
  decode Config.standard .addr8 [0b01111000] = .ok (.addrWrite 0x3C) [] ∧
  decode Config.standard .ctrl8 [0b01000000] = .ok .ctrlDataMulti [] ∧
  decode Config.standard .dcmd8 [0b10110101] = .ok (.dcSetPage 5) [] ∧
  decode Config.standard .dcmd16 [0b11011010, 0b00010010] = .ok (.dcComPins 0 1) [] ∧
  decode Config.standard .rle8 [0b11111111] = .ok (.run 255) []

/-- 30_encoding.md R91, R110: the seven host codes, and every other code rejected. -/
def Obligations.HostCodesDecodeAndTheRestAreReserved : Prop :=
  ∀ (c : Config) (b : Byte) (rest : List Byte),
    decode c .hostop8 (b :: rest) =
      if b = 0x01 then .ok .clear rest else if b = 0x02 then .ok .decode rest
      else if b = 0x03 then .ok .update rest else if b = 0x04 then .ok .init rest
      else if b = 0x05 then .ok .transact rest else if b = 0x06 then .ok .streamPage rest
      else if b = 0x07 then .ok .arm rest else .rejected .reservedCode

/-- 30_encoding.md R120: with the default parameters, decoding the bytes of an instruction gives it back, whatever follows. -/
def Obligations.DecodingUndoesEncoding : Prop :=
  ∀ (i : Instr) (rest : List Byte),
    decode Config.standard i.format (encode Config.standard i ++ rest) = .ok i rest

/-- 30_encoding.md R120: with the default parameters a decoder accepts nothing outside its format's rows: bytes that it reads as an
instruction are the bytes of that instruction's row. EVT1 is left out: its one bit is a placeholder (R119). -/
def Obligations.EncodingUndoesDecoding : Prop :=
  ∀ (f : Format) (bytes rest : List Byte) (i : Instr), f ≠ .evt1 → decode Config.standard f bytes = .ok i rest →
    i.format = f ∧ encode Config.standard i ++ rest = bytes

/-- 30_encoding.md R103, R104, R105: the bytes of the addressing commands, for any configuration that K5 admits, as sums (the low
bits of the bases are zero); a column start `x` is 0 to 127 and is cut into its nibbles. -/
def Obligations.AddressingCommandBytes : Prop :=
  ∀ c : Config, c.wf = true →
    (∀ p : BitVec 3, (encode c (.dcSetPage p)).map BitVec.toNat = [c.cmdSetPage.toNat + p.toNat]) ∧
    (∀ x : Nat, x < displayW →
      (encode c (.dcColLo (BitVec.ofNat 4 (x % 16)))).map BitVec.toNat = [c.cmdColLo.toNat + x % 16] ∧
      (encode c (.dcColHi (BitVec.ofNat 4 (x / 16)))).map BitVec.toNat = [c.cmdColHi.toNat + x / 16] ∧
      (Instr.dcColHi (BitVec.ofNat 4 (x / 16))).wellFormed = true)

/-! ### Reset and the configuration -/

/-- 10_state.md R50, 70_reset_and_hazards.md R260: every piece of state that the spec gives a reset value has it. -/
def Obligations.ResetLeavesTheValuesTheSpecGives : Prop :=
  State.reset.offset = 0 ∧ State.reset.frame = 0 ∧ State.reset.seq = [] ∧ State.reset.busy = false ∧
  State.reset.startReq = false ∧ State.reset.fStart = false ∧ State.reset.fAddr = false ∧ State.reset.fBtc = false ∧
  State.reset.inXact = false ∧ State.reset.await = .none ∧ State.reset.tickPend = false ∧ State.reset.tickEn = false ∧
  State.reset.playing = false ∧ State.reset.initDone = false ∧ State.reset.fault = none ∧ State.reset.wire = [] ∧
  State.reset.quiescent = true

/-- The invariant holds at reset, whose configuration passes the check of 00_scope.md R8. -/
def Obligations.ResetMeetsTheInvariant : Prop := State.reset.Inv ∧ State.reset.cfg.wf = true

/-- 00_scope.md R8: a configuration that fails K1, K2, K3 or K5 is refused by every step (K4 is a premise, no check). -/
def Obligations.IllFormedConfigIsRefused : Prop :=
  ∀ s : State,
    (s.cfg.srcW = 0 ∨ displayW % s.cfg.srcW ≠ 0 ∨ s.cfg.totalFrames = 0 ∨ 2 ^ 32 ≤ s.cfg.totalFrames ∨
      2 ^ 32 ≤ s.cfg.stream.length ∨ s.cfg.cmdSetPage.toNat % 8 ≠ 0 ∨ s.cfg.cmdColLo.toNat % 16 ≠ 0 ∨
      s.cfg.cmdColHi.toNat % 16 ≠ 0 ∨ ∃ t ∈ s.cfg.initSeq, t.length = 0 ∨ txbufMax < t.length) →
    step s = .refused .illFormedConfig

/-! ### What every step keeps -/

/-- Every step keeps the invariant: the framebuffer in its canonical form, BUSY = 1 exactly when SEQ is not IDLE (10_state.md R38),
BUSY = 1 where a verdict stands (60_exceptions.md R243), IDX at most FB_SIZE (10_state.md R24), a tick pending only when
enabled (60_exceptions.md R231), PLAYING only after INIT (43_playback_scheduler.md R211). -/
def Obligations.StepKeepsTheInvariant : Prop :=
  ∀ s t : State, s.Inv → step s = .next t → t.Inv

/-- What no step takes back: the parameters stay (00_scope.md R15), WIRE only grows (20_memory.md R66), TICK_EN, PLAYING and
INIT_DONE are cleared by nothing but reset (10_state.md R35, R36, R37), FAULT is never cleared (60_exceptions.md R243). -/
def Obligations.NothingIsTakenBack : Prop :=
  ∀ s t : State, step s = .next t →
    t.cfg = s.cfg ∧ s.wire <+: t.wire ∧ (s.tickEn = true → t.tickEn = true) ∧ (s.playing = true → t.playing = true) ∧
    (s.initDone = true → t.initDone = true) ∧ (∀ c, s.fault = some c → t.fault = some c)

/-- 20_memory.md R65, 40_bus_transport.md R146: whatever a step puts on the wires, an address byte in it is DEV_ADDR with direction
write. -/
def Obligations.OnlyTheDeviceIsAddressedAndOnlyForWriting : Prop :=
  ∀ s t : State, step s = .next t → ∀ b, WireEvent.addr b ∈ t.wire.drop s.wire.length →
    b.toNat = 2 * s.cfg.devAddr.toNat

/-- 60_exceptions.md R243: once a verdict stands, no step of the engine follows: SEQ, BUSY, the verdict, FB and the playback
registers stay, and no tick is accepted. -/
def Obligations.AVerdictStopsTheEngine : Prop :=
  ∀ s t : State, s.Inv → s.fault ≠ none → step s = .next t →
    t.busy = true ∧ t.seq = s.seq ∧ t.fault = s.fault ∧ t.fb = s.fb ∧ t.offset = s.offset ∧ t.frame = s.frame ∧
    t.initDone = s.initDone ∧ t.playing = s.playing ∧ t.tickEn = s.tickEn ∧ t.hb = s.hb

/-- 60_exceptions.md R240, 40_bus_transport.md R144: at a hold BUSY = 1, and while BUS does not take the step that lifts it nothing
moves but TICK_PEND and the values HOST reads. -/
def Obligations.AHoldIsLeftOnlyByBus : Prop :=
  ∀ s : State, s.Inv → s.atHold = true →
    s.busy = true ∧
    ∀ t, s.busReady = false → step s = .next t →
      t = { s with tickPend := t.tickPend, script := t.script, hostData := t.hostData }

/-- 10_state.md R52, R40: after ARM no line of the program, whatever its moment, changes FB, OFFSET, FRAME, the host registers, SEQ
or WIRE: in every step in which a line lands nothing but TICK_PEND and what HOST has read changes. -/
def Obligations.AfterArmHostChangesNothing : Prop :=
  ∀ s t : State, s.cfg.wf = true → s.tickEn = true → s.lineLands = true → step s = .next t →
    t = { s with tickPend := t.tickPend, script := t.script, hostData := t.hostData }

/-! ### What a step runs -/

/-- 60_exceptions.md R235: HOST's write of a legal code to CMD, with the block idle and not armed, runs the operation; the code is
the low byte of the value (log entry 8). -/
def Obligations.StepRunsTheHostOperation : Prop :=
  ∀ (s : State) (i : Instr) (m : Moment) (v : Word) (rest : List Line), s.cfg.wf = true → s.Idle → s.busReady = false →
    s.script = ⟨m, .write 0 v⟩ :: rest → decode s.cfg .hostop8 [v.setWidth 8] = .ok i [] →
    step s = exec i { s with script := rest }

/-- 30_encoding.md R110, 10_state.md R41: a write of a reserved code to CMD is refused. -/
def Obligations.StepRefusesAReservedCode : Prop :=
  ∀ (s : State) (m : Moment) (code : Byte) (rest : List Line), s.cfg.wf = true → s.Idle → s.busReady = false →
    s.script = ⟨m, .write 0 (code.setWidth 32)⟩ :: rest → (code = 0x00 ∨ 0x08 ≤ code.toNat) →
    step s = .refused (.reservedCode code)

/-- Inside an operation, the instruction of each point that is a row of the opcode table, and the state it runs on, in which the
engine is past the point: the address byte (40_bus_transport.md R132), the control byte of STREAM_PAGE (R142) and of TXBUF
(R140), UPDATE's addressing commands (41_display_driver.md R168), a controller command of INIT_SEQ (R161). `countdown` brings the
next line one step nearer. That such a point runs its row is the model's cut (log entries 2, 12, 22). -/
def Obligations.StepRunsTheFetchedInstruction : Prop :=
  ∀ (s : State) (k : List Work), s.cfg.wf = true → s.lineDue = false → s.fault = none →
    (s.seq = .addr :: k → step s = exec (.addrWrite s.cfg.devAddr) { countdown s with seq := k }) ∧
    (s.seq = .pageCtrl :: k → step s = exec .ctrlDataMulti { countdown s with seq := k }) ∧
    (s.seq = .txLoop :: k → s.txptr = 0 → s.txlen ≠ 0 →
      ∀ i, decode s.cfg .ctrl8 [s.txbuf.b0] = .ok i [] → step s = exec i { countdown s with seq := .txNext :: k }) ∧
    (s.seq = .setPage :: k → s.page.toNat < pageCount →
      step s = exec (.dcSetPage (BitVec.ofNat 3 s.page.toNat)) { countdown s with seq := k }) ∧
    (s.seq = .colLo :: k → step s = exec (.dcColLo 0) { countdown s with seq := k }) ∧
    (s.seq = .colHi :: k → step s = exec (.dcColHi 0) { countdown s with seq := k }) ∧
    (s.seq = .initLoop :: k → ∀ i, (i.format = .dcmd8 ∨ i.format = .dcmd16) →
      s.cfg.initSeq[s.initptr]? =
        some ((if i.format = .dcmd8 then s.cfg.ctrlCmdSingle else s.cfg.ctrlCmdMulti) :: encode s.cfg i) →
      step s = exec i { countdown s with seq := .initNext :: k })

/-- 10_state.md R28, 42_frame_decoder.md R191: DECODE's loop runs the stream byte that OFFSET points at, decoded as a run. -/
def Obligations.StepRunsTheStreamByteAtOffset : Prop :=
  ∀ (s : State) (k : List Work) (n : Byte) (i : Instr) (rest : List Byte), s.cfg.wf = true → s.undisturbed = true →
    s.fault = none → s.seq = .decodeLoop :: k → s.idx.toNat < fbSize → s.cfg.stream[s.offset.toNat]? = some n →
    decode s.cfg .rle8 [n] = .ok i rest → step s = exec i s

/-- 60_exceptions.md R233: exactly when BUSY = 0, TICK_EN = 1, TICK_PEND = 1 and FAULT = NONE, and nothing else can move, the step
is accept_tick: BUSY <- 1, SEQ at the first step of TICK, nothing else. The next step, no line landing between, is exec of TICK,
the whole operation (log entries 3, 20). Otherwise, with no line left, the step answers the same state (log entry 25). -/
def Obligations.StepAcceptsAPendingTick : Prop :=
  ∀ s : State, s.cfg.wf = true → s.undisturbed = true → s.engineReady = false → s.busReady = false →
    (s.busy = false ∧ s.tickEn = true ∧ s.tickPend = true ∧ s.fault = none →
      ∃ t, t = { s with busy := true, seq := [.tick] } ∧ step s = .next t ∧ step t = exec .tick t ∧
        exec .tick t = exec .tick s) ∧
    (¬ (s.busy = false ∧ s.tickEn = true ∧ s.tickPend = true ∧ s.fault = none) → s.script = [] → step s = .next s)

/-! ### The host registers -/

/-- 10_state.md R42: STATUS, bit by bit. -/
def Obligations.StatusShowsTheFlags : Prop :=
  ∀ s : State,
    s.status.getLsbD 0 = s.busy ∧ s.status.getLsbD 1 = s.initDone ∧ s.status.getLsbD 2 = s.playing ∧
    s.status.getLsbD 3 = s.tickEn ∧ s.status.getLsbD 4 = s.tickPend ∧ s.status.getLsbD 5 = s.hb ∧
    s.status.getLsbD 6 = s.color ∧ s.status.getLsbD 7 = false ∧ s.status.getLsbD 8 = s.fStart ∧
    s.status.getLsbD 9 = s.fAddr ∧ s.status.getLsbD 10 = s.fBtc ∧ s.status.getLsbD 11 = s.inXact ∧
    (∀ j, 12 ≤ j → s.status.getLsbD j = false) ∧
    readReg s 1 = some (BitVec.ofNat 32 s.status.toNat) ∧ ∀ v, writeReg s 1 v = some s

/-- 10_state.md R40, R41, R45, R46, R47: what a write leaves in a register, and that it leaves every other register as it was. CMD
reads as 0. A value wider than the register is cut (log entry 8). -/
def Obligations.ARegisterReadsBackWhatWasWritten : Prop :=
  ∀ (s : State) (reg : Nat) (v : Word), s.fb.wf = true → readReg s 0 = some 0 ∧
    ((reg = 3 ∨ reg = 4) → ∃ t, writeReg s reg v = some t ∧ readReg t reg = some (BitVec.ofNat 32 (v.toNat % 8)) ∧
      ∀ r, r ≠ reg → readReg t r = readReg s r) ∧
    ((5 ≤ reg ∧ reg ≤ 8 ∨ 1024 ≤ reg ∧ reg < 2048) →
      ∃ t, writeReg s reg v = some t ∧ readReg t reg = some (BitVec.ofNat 32 (v.toNat % 256)) ∧
        ∀ r, r ≠ reg → readReg t r = readReg s r) ∧
    ((reg = 9 ∨ reg = 10) → ∃ t, writeReg s reg v = some t ∧ readReg t reg = some v ∧
      ∀ r, r ≠ reg → readReg t r = readReg s r)

/-- 10_state.md R40 to R47: the registers are the state itself, and a write by HOST while it may changes that state and nothing
else but the line it comes from; a read by HOST while it may returns the register's value and changes nothing else. What reads
return is collected in `hostData` (log entry 23); a wider value is cut (log entry 8). -/
def Obligations.HostAccessesReachTheState : Prop :=
  ∀ (s : State) (m : Moment) (v : Word) (rest : List Line), s.cfg.wf = true → s.Idle → s.busReady = false →
    (s.script = ⟨m, .write 1 v⟩ :: rest → step s = .next { s with script := rest }) ∧
    (s.script = ⟨m, .write 3 v⟩ :: rest →
      step s = .next { s with script := rest, argPage := BitVec.ofNat 3 v.toNat }) ∧
    (s.script = ⟨m, .write 4 v⟩ :: rest →
      step s = .next { s with script := rest, txlen := BitVec.ofNat 3 v.toNat }) ∧
    (s.script = ⟨m, .write 5 v⟩ :: rest →
      step s = .next { s with script := rest, txbuf := { s.txbuf with b0 := BitVec.ofNat 8 v.toNat } }) ∧
    (s.script = ⟨m, .write 6 v⟩ :: rest →
      step s = .next { s with script := rest, txbuf := { s.txbuf with b1 := BitVec.ofNat 8 v.toNat } }) ∧
    (s.script = ⟨m, .write 7 v⟩ :: rest →
      step s = .next { s with script := rest, txbuf := { s.txbuf with b2 := BitVec.ofNat 8 v.toNat } }) ∧
    (s.script = ⟨m, .write 8 v⟩ :: rest →
      step s = .next { s with script := rest, txbuf := { s.txbuf with b3 := BitVec.ofNat 8 v.toNat } }) ∧
    (s.script = ⟨m, .write 9 v⟩ :: rest → step s = .next { s with script := rest, offset := v }) ∧
    (s.script = ⟨m, .write 10 v⟩ :: rest → step s = .next { s with script := rest, frame := v }) ∧
    (∀ j, j < fbSize → s.script = ⟨m, .write (1024 + j) v⟩ :: rest →
      step s = .next { s with script := rest, fb := s.fb.write j (BitVec.ofNat 8 v.toNat) }) ∧
    (∀ r ∈ [(0, 0), (1, s.status.toNat), (3, s.argPage.toNat), (4, s.txlen.toNat), (5, s.txbuf.b0.toNat),
        (6, s.txbuf.b1.toNat), (7, s.txbuf.b2.toNat), (8, s.txbuf.b3.toNat), (9, s.offset.toNat), (10, s.frame.toNat)],
      s.script = ⟨m, .read r.1⟩ :: rest →
      step s = .next { s with script := rest, hostData := s.hostData ++ [BitVec.ofNat 32 r.2] }) ∧
    (∀ j, j < fbSize → s.script = ⟨m, .read (1024 + j)⟩ :: rest →
      step s = .next { s with script := rest, hostData := s.hostData ++ [BitVec.ofNat 32 (s.fb.read j).toNat] })

/-- 10_state.md R48: an access to a reserved register number is refused. -/
def Obligations.ReservedRegistersAreRefused : Prop :=
  ∀ (s : State) (m : Moment) (reg : Nat) (v : Word) (rest : List Line), s.cfg.wf = true → s.Idle → s.busReady = false →
    (reg = 2 ∨ 11 ≤ reg ∧ reg ≤ 1023 ∨ 2048 ≤ reg) →
    (s.script = ⟨m, .read reg⟩ :: rest ∨ s.script = ⟨m, .write reg v⟩ :: rest) →
    step s = .refused (.reservedRegister reg)

/-- 10_state.md R40, 70_reset_and_hazards.md R272: a read of STATUS that lands returns it at any time; any other access that is due
while BUSY = 1, or that lands while TICK_EN = 1 and BUSY = 0, is no move of HOST, which the model answers by a refusal (log
entry 7). -/
def Obligations.HostMayOnlyReadStatusWhileBusyOrArmed : Prop :=
  ∀ (s : State) (m : Moment) (rest : List Line), s.cfg.wf = true → s.lineLands = true →
    (s.script = ⟨m, .read 1⟩ :: rest →
      step s = .next { s with script := rest, hostData := s.hostData ++ [s.status.setWidth 32] }) ∧
    (s.busy = true ∧ m = .after 0 ∨ s.busy = false ∧ s.tickEn = true →
      (∀ reg, reg ≠ 1 → s.script = ⟨m, .read reg⟩ :: rest → step s = .refused .noMove) ∧
      (∀ reg v, s.script = ⟨m, .write reg v⟩ :: rest → step s = .refused .noMove))

/-- 60_exceptions.md R235: no host operation starts while BUSY = 1 or TICK_EN = 1. -/
def Obligations.NoHostOperationStartsWhileBusyOrArmed : Prop :=
  ∀ s : State, s.busy = true ∨ s.tickEn = true →
    ∀ i ∈ [Instr.clear, .decode, .update, .init, .transact, .streamPage, .arm], exec i s = .refused .noMove

/-! ### The framebuffer -/

/-- 20_memory.md R71, R72: a byte of FB reads as the latest write to it, other bytes are not touched, and the canonical form stays. -/
def Obligations.AByteOfFbReadsAsLastWritten : Prop :=
  ∀ (m : Memory) (i j : Nat) (v : Byte), m.wf = true → i < fbSize →
    (m.write i v).wf = true ∧ (m.write i v).read j = if j = i then v else m.read j

/-! ### The bus primitives -/

/-- 40_bus_transport.md R134, R135, R136: the three steps of BUS, each where it is the one enabled (where two are, in states no run
reaches, the order is the model's: log entry 15), with its whole effect. -/
def Obligations.BusLiftsTheHolds : Prop :=
  ∀ s : State, s.cfg.wf = true → s.undisturbed = true → s.engineReady = false → s.DevicePresent →
    (s.startReq = true ∧ s.inXact = false → s.await = .none →
      step s = .next { s with wire := s.wire ++ [.start], startReq := false, inXact := true, fStart := true }) ∧
    (¬ (s.startReq = true ∧ s.inXact = false) → s.await = .addr → step s = .next { s with await := .none, fAddr := true }) ∧
    (¬ (s.startReq = true ∧ s.inXact = false) → s.await = .byte → step s = .next { s with await := .none, fBtc := true })

/-- 40_bus_transport.md R131, R137: bus_start with its hold, and bus_stop, inside an operation that goes on with `w`; and the engine
going on from H_ADDR (R132) and H_BTC (R133) once the condition is true. -/
def Obligations.TheEngineGoesOnWhenAHoldIsLifted : Prop :=
  ∀ (s : State) (w : Work) (k : List Work), s.cfg.wf = true → s.undisturbed = true → s.fault = none →
    (s.seq = .start :: w :: k →
      step s = .next { s with startReq := true, seq := .waitStart :: w :: k, busy := true }) ∧
    (s.seq = .waitStart :: w :: k → s.fStart = true → step s = .next { s with seq := w :: k, busy := true }) ∧
    (s.seq = .waitAddr :: w :: k → s.fAddr = true → step s = .next { s with seq := w :: k, busy := true }) ∧
    (s.seq = .waitBtc :: w :: k → s.fBtc = true → step s = .next { s with seq := w :: k, busy := true }) ∧
    (s.seq = .stop :: w :: k →
      step s = .next { s with fBtc := false, wire := s.wire ++ [.stop], inXact := false, seq := w :: k, busy := true })

/-- 40_bus_transport.md R132: ADDR_WRITE sends DEV_ADDR with direction write, up to H_ADDR. -/
def Obligations.AddrWriteSendsTheAddressByte : Prop :=
  ∀ s : State, s.fault = none →
    exec (.addrWrite s.cfg.devAddr) s = .next { s with
      fStart := false, wire := s.wire ++ [.addr (BitVec.ofNat 8 (2 * s.cfg.devAddr.toNat))], await := .addr,
      seq := .waitAddr :: s.seq, busy := true }

/-- 40_bus_transport.md R146, 20_memory.md R65: the block has no read transaction and sends no address but DEV_ADDR; asked for one,
the model refuses (log entry 11). -/
def Obligations.OtherAddressBytesAreRefused : Prop :=
  ∀ (s : State) (a : BitVec 7), exec (.addrRead a) s = .refused .readTransfer ∧
    (a ≠ s.cfg.devAddr → exec (.addrWrite a) s = .refused .otherAddress)

/-- 40_bus_transport.md R133, 30_encoding.md R96 to R100: a control byte goes out as a data byte, up to H_BTC. -/
def Obligations.ControlBytesAreSentAsDataBytes : Prop :=
  ∀ s : State, s.fault = none →
    ∀ e ∈ [(Instr.ctrlCmdSingle, s.cfg.ctrlCmdSingle), (.ctrlCmdMulti, s.cfg.ctrlCmdMulti),
           (.ctrlDataSingle, s.cfg.ctrlDataSingle), (.ctrlDataMulti, s.cfg.ctrlDataMulti)],
      exec e.1 s = .next { s with
        fAddr := false, fBtc := false, wire := s.wire ++ [.data e.2], await := .byte, seq := .waitBtc :: s.seq,
        busy := true }

/-! ### TRANSACT and the controller commands -/

/-- 40_bus_transport.md R140: TRANSACT of 1 to TXBUF_MAX bytes appends one transaction, and nothing else but TXPTR changes. -/
def Obligations.TransactSendsItsBuffer : Prop :=
  ∀ s : State, s.Idle → s.Clear → 1 ≤ s.txlen.toNat → s.txlen.toNat ≤ txbufMax →
    exec .transact s = .next { s with
      txptr := s.txlen,
      wire := s.wire ++ [.start, .addr (addressByte s.cfg)] ++
        ([s.txbuf.b0, s.txbuf.b1, s.txbuf.b2, s.txbuf.b3].take s.txlen.toNat).map WireEvent.data ++ [.stop] }

/-- 40_bus_transport.md R141: an illegal length is FLT_TXLEN before any bus activity, the engine stopped at the test. -/
def Obligations.TransactOfIllegalLengthFaults : Prop :=
  ∀ s : State, s.Idle → s.undisturbed = true → s.busQuiet = true → (s.txlen = 0 ∨ txbufMax < s.txlen.toNat) →
    exec .transact s = .next { s with seq := [.transact], busy := true, fault := some .txlen }

/-- 40_bus_transport.md R147, 60_exceptions.md R240: where BUS takes only `n` of the steps it owes, TRANSACT hangs at the hold it
owes next, and WIRE has that much of the transaction. -/
def Obligations.TransactHangsWhereBusStops : Prop :=
  ∀ (s : State) (n : Nat), s.Idle → s.undisturbed = true → s.busQuiet = true → s.device = .answers n →
    1 ≤ s.txlen.toNat → s.txlen.toNat ≤ txbufMax → n < 2 + s.txlen.toNat →
    ∃ t, exec .transact s = .next t ∧ t.busy = true ∧ t.atHold = true ∧ t.busReady = false ∧
      t.wire = s.wire ++ (transactionTrace s.cfg (s.txbuf.bytes s.txlen.toNat)).take (if n = 0 then 0 else n + 1)

/-- 30_encoding.md R101, R102: each of the eighteen controller commands goes out as the payload of one command transaction, behind
CTRL_CMD_SINGLE when it is one byte and CTRL_CMD_MULTI when it is two, on top of whatever the engine was doing (`s.seq`, which
is where it goes on). -/
def Obligations.AControllerCommandIsOneTransaction : Prop :=
  ∀ (s : State) (i : Instr), s.Clear → s.busy = !s.seq.isEmpty → (i.format = .dcmd8 ∨ i.format = .dcmd16) →
    ∃ bytes, bytes = (if i.format = .dcmd8 then s.cfg.ctrlCmdSingle else s.cfg.ctrlCmdMulti) :: encode s.cfg i ∧
      exec i s = .next { s with
        txbuf := s.txbuf.load 0 bytes, txlen := BitVec.ofNat 3 bytes.length, txptr := BitVec.ofNat 3 bytes.length,
        wire := s.wire ++ [.start, .addr (addressByte s.cfg)] ++ bytes.map WireEvent.data ++ [.stop] }

/-! ### STREAM_PAGE, INIT, UPDATE, CLEAR, ARM -/

/-- 40_bus_transport.md R142, 10_state.md R45: STREAM_PAGE issued by HOST sends the page ARG_PAGE names, FB unchanged. -/
def Obligations.StreamPageSendsThePage : Prop :=
  ∀ s : State, s.Idle → s.Clear → s.initDone = true →
    exec .streamPage s = .next { s with
      page := BitVec.ofNat 4 s.argPage.toNat, col := BitVec.ofNat 8 displayW,
      wire := s.wire ++ [.start, .addr (addressByte s.cfg), .data s.cfg.ctrlDataMulti] ++
        ((List.range displayW).map fun c => WireEvent.data (s.fb.read (s.argPage.toNat * displayW + c))) ++ [.stop] }

/-- 40_bus_transport.md R143, 41_display_driver.md R168: STREAM_PAGE and UPDATE before INIT are FLT_NOT_INIT before any bus
activity. -/
def Obligations.PageOperationsBeforeInitFault : Prop :=
  ∀ s : State, s.Idle → s.undisturbed = true → s.busQuiet = true → s.initDone = false →
    exec .streamPage s = .next { s with
      page := BitVec.ofNat 4 s.argPage.toNat, seq := [.streamPage], busy := true, fault := some .notInit } ∧
    exec .update s = .next { s with seq := [.update], busy := true, fault := some .notInit }

/-- 41_display_driver.md R161: INIT sends INIT_SEQ in order and sets INIT_DONE; the last transaction stays in TXBUF
(70_reset_and_hazards.md R277). -/
def Obligations.InitSendsTheSequence : Prop :=
  ∀ s : State, s.cfg.wf = true → s.Idle → s.Clear → s.initDone = false →
    exec .init s = .next { s with
      initDone := true, initptr := s.cfg.initSeq.length,
      txbuf := s.cfg.initSeq.foldl (fun u t => u.load 0 t) s.txbuf,
      txlen := (s.cfg.initSeq.getLast?.map fun t => BitVec.ofNat 3 t.length).getD s.txlen,
      txptr := (s.cfg.initSeq.getLast?.map fun t => BitVec.ofNat 3 t.length).getD s.txptr,
      wire := s.wire ++ s.cfg.initSeq.flatMap (transactionTrace s.cfg) }

/-- 41_display_driver.md R166: the trace of INIT with the defaults, byte by byte, and its counts. -/
def Obligations.TheDefaultInitTrace : Prop :=
  ∀ s : State, s.cfg = Config.standard → s.Idle → s.Clear → s.initDone = false →
    ∃ t sent, exec .init s = .next t ∧ t.initDone = true ∧ t.wire = s.wire ++ sent ∧
      sent = [[0x80, 0xAE], [0x00, 0x20, 0x02], [0x80, 0xB0], [0x00, 0xA8, 0x3F], [0x00, 0xD3, 0x00], [0x80, 0xA1],
          [0x80, 0xC8], [0x00, 0xDA, 0x12], [0x00, 0x81, 0x7F], [0x80, 0xA4], [0x80, 0xA6], [0x00, 0xD5, 0x80],
          [0x00, 0xD9, 0x22], [0x00, 0xDB, 0x20], [0x00, 0x8D, 0x14], [0x80, 0xAF]].flatMap
          (fun l => [WireEvent.start, .addr 0x78] ++ l.map WireEvent.data ++ [.stop]) ∧
      sent.countP (· == .start) = 16 ∧ sent.countP (· == .stop) = 16 ∧
      sent.countP (fun e => match e with | .addr _ => true | _ => false) = 16 ∧
      sent.countP (fun e => match e with | .data _ => true | _ => false) = 41

/-- 41_display_driver.md R164: a second INIT is FLT_REINIT before any bus activity. -/
def Obligations.ASecondInitFaults : Prop :=
  ∀ s : State, s.Idle → s.undisturbed = true → s.busQuiet = true → s.initDone = true →
    exec .init s = .next { s with seq := [.init], busy := true, fault := some .reinit }

/-- 41_display_driver.md R168: UPDATE sends, for each page 0 to 7, the page command, the two column commands and the page's 128
bytes, each in its own transaction; FB, OFFSET, FRAME and the flags are not changed. -/
def Obligations.UpdateSendsThePagesInOrder : Prop :=
  ∀ s : State, s.Idle → s.Clear → s.initDone = true →
    exec .update s = .next { s with
      page := 8, col := BitVec.ofNat 8 displayW,
      txbuf := { s.txbuf with b0 := s.cfg.ctrlCmdSingle, b1 := s.cfg.cmdColHi }, txlen := 2, txptr := 2,
      wire := s.wire ++ (List.range 8).flatMap fun p =>
        transactionTrace s.cfg [s.cfg.ctrlCmdSingle, s.cfg.cmdSetPage ||| BitVec.ofNat 8 p] ++
        transactionTrace s.cfg [s.cfg.ctrlCmdSingle, s.cfg.cmdColLo] ++
        transactionTrace s.cfg [s.cfg.ctrlCmdSingle, s.cfg.cmdColHi] ++
        transactionTrace s.cfg
          (s.cfg.ctrlDataMulti :: (List.range displayW).map fun c => s.fb.read (p * displayW + c)) }

/-- 41_display_driver.md R169: the counts of an UPDATE's trace, and the display data bytes in increasing framebuffer order. -/
def Obligations.AnUpdateIs32Transactions : Prop :=
  ∀ s : State, s.Idle → s.Clear → s.initDone = true →
    ∃ t sent, exec .update s = .next t ∧ t.wire = s.wire ++ sent ∧ sent = updateTrace s.cfg s.fb ∧
      sent.countP (· == .start) = 32 ∧ sent.countP (· == .stop) = 32 ∧
      sent.countP (fun e => match e with | .addr _ => true | _ => false) = 32 ∧
      sent.countP (fun e => match e with | .data _ => true | _ => false) = 1080 ∧
      sent.countP (fun e => match e with | .addr _ | .data _ => true | _ => false) = 1112 ∧
      (List.range pageCount).flatMap (pageBytes s.fb) = (List.range fbSize).map s.fb.read

/-- 41_display_driver.md R171, 70_reset_and_hazards.md R276 with the informative device model of R188 (log entry 19): where the
device is in page addressing mode, after an UPDATE every byte of its display RAM is the framebuffer byte of its page and column,
whatever else it held; for all parameters whose command bases differ and whose CTRL_DATA_MULTI is none of the other control
bytes. And the default INIT_SEQ leaves any device in page addressing mode, on (R175, R187). -/
def Obligations.UpdateMirrorsFbOnThePanel : Prop :=
  (∀ (s : State) (d : Panel), s.cfg.wf = true → s.Idle → s.Clear → s.initDone = true →
    s.cfg.cmdSetPage ≠ s.cfg.cmdColLo → s.cfg.cmdSetPage ≠ s.cfg.cmdColHi → s.cfg.cmdColLo ≠ s.cfg.cmdColHi →
    s.cfg.ctrlDataMulti ∉ [s.cfg.ctrlCmdSingle, s.cfg.ctrlCmdMulti, s.cfg.ctrlDataSingle] →
    d.mode = pageMode →
    ∃ t sent, exec .update s = .next t ∧ t.wire = s.wire ++ sent ∧
      ∀ p c, p < pageCount → c < displayW →
        (d.watch s.cfg sent).gddram p c = some (s.fb.read (p * displayW + c))) ∧
  ∀ d : Panel, (d.watch Config.standard (initTrace Config.standard)).mode = pageMode ∧
    (d.watch Config.standard (initTrace Config.standard)).on = true

/-- 41_display_driver.md R172: CLEAR leaves every byte of FB 0x00 and IDX at FB_SIZE, and nothing else changes. -/
def Obligations.ClearZeroesTheFramebuffer : Prop :=
  ∀ s : State, s.Idle → s.undisturbed = true →
    ∃ m : Memory, m.wf = true ∧ (∀ i, i < fbSize → m.read i = 0x00) ∧
      exec .clear s = .next { s with fb := m, idx := BitVec.ofNat 11 fbSize }

/-- 43_playback_scheduler.md R216: ARM sets TICK_EN, and nothing else changes. -/
def Obligations.ArmEnablesTheTick : Prop :=
  ∀ s : State, s.Idle → s.undisturbed = true → exec .arm s = .next { s with tickEn := true }

/-! ### DECODE and RUN -/

/-- 42_frame_decoder.md R191, R192, R195: DECODE of one frame of the stream leaves its picture in FB and the cursor behind it. -/
def Obligations.DecodeDrawsOneFrame : Prop :=
  ∀ (s : State) (runs : List Byte), s.cfg.wf = true → s.Idle → s.undisturbed = true →
    frameAt s.cfg s.offset.toNat runs →
    ∃ m : Memory, m.wf = true ∧ shows m s.cfg.pixelScale runs ∧
      exec .decode s = .next { s with
        fb := m, offset := s.offset + BitVec.ofNat 32 runs.length, idx := BitVec.ofNat 11 fbSize,
        color := runs.length % 2 == 1, run := runs.getLast?.getD s.run, rem := 0 }

/-- 42_frame_decoder.md R192: after DECODE of a frame, run number `j` of it, counted from 0, has written 0x00 when `j` is even and
0xFF when it is odd, whatever COLOR was before: byte `i` of FB is that of the run it falls in. -/
def Obligations.RunsAlternateFromOff : Prop :=
  ∀ (s : State) (runs : List Byte), s.cfg.wf = true → s.Idle → s.undisturbed = true →
    frameAt s.cfg s.offset.toNat runs →
    ∃ t, exec .decode s = .next t ∧
      ∀ (i j : Nat) (n : Byte), runs[j]? = some n → runsTotal s.cfg.pixelScale (runs.take j) ≤ i →
        i < runsTotal s.cfg.pixelScale (runs.take j) + n.toNat * s.cfg.pixelScale →
        t.fb.read i = if j % 2 = 0 then 0x00 else 0xFF

/-- 42_frame_decoder.md R196: a run that would pass the end of FB is FLT_OVERRUN at the run read: the runs before it are drawn,
nothing of it is. -/
def Obligations.DecodeOverrunFaults : Prop :=
  ∀ (s : State) (runs : List Byte) (n : Byte), s.cfg.wf = true → s.Idle → s.undisturbed = true → s.busQuiet = true →
    runsAt s.cfg s.offset.toNat (runs ++ [n]) → fbSize < runsTotal s.cfg.pixelScale (runs ++ [n]) →
    ∃ m : Memory, m.wf = true ∧ shows m s.cfg.pixelScale runs ∧
      exec .decode s = .next { s with
        fb := m, offset := s.offset + BitVec.ofNat 32 (runs.length + 1),
        idx := BitVec.ofNat 11 (runsTotal s.cfg.pixelScale runs), color := runs.length % 2 == 1, run := n,
        rem := n.toNat * s.cfg.pixelScale, seq := [.decodeLoop], busy := true, fault := some .overrun }

/-- 42_frame_decoder.md R197: where a run is needed and the stream has none at OFFSET, it is FLT_STREAM_END and nothing is read. -/
def Obligations.DecodePastTheStreamFaults : Prop :=
  ∀ (s : State) (runs : List Byte), s.cfg.wf = true → s.Idle → s.undisturbed = true → s.busQuiet = true →
    s.cfg.stream.drop s.offset.toNat = runs → runsTotal s.cfg.pixelScale runs < fbSize →
    ∃ m : Memory, m.wf = true ∧ shows m s.cfg.pixelScale runs ∧
      exec .decode s = .next { s with
        fb := m, offset := s.offset + BitVec.ofNat 32 runs.length,
        idx := BitVec.ofNat 11 (runsTotal s.cfg.pixelScale runs), color := runs.length % 2 == 1,
        run := runs.getLast?.getD s.run, rem := if runs = [] then s.rem else 0, seq := [.decodeLoop], busy := true,
        fault := some .streamEnd }

/-- 42_frame_decoder.md R198: the framebuffer, the cursor and the verdict DECODE leaves depend on STREAM, the parameters and the
cursor it is given alone: two states that agree on them, and differ anywhere else, agree on them after. -/
def Obligations.DecodeDependsOnTheCursorAlone : Prop :=
  ∀ s₁ s₂ t₁ t₂ : State, s₁.cfg.wf = true → s₁.Idle → s₂.Idle → s₁.undisturbed = true → s₂.undisturbed = true →
    s₁.cfg = s₂.cfg → s₁.offset = s₂.offset → exec .decode s₁ = .next t₁ → exec .decode s₂ = .next t₂ →
    t₁.fb = t₂.fb ∧ t₁.offset = t₂.offset ∧ t₁.fault = t₂.fault

/-- 30_encoding.md R106, 42_frame_decoder.md R191, R193: RUN of `n` source pixels that fit writes `n` x PIXEL_SCALE bytes of the
current color from IDX up, advances OFFSET by one and flips the color; every other byte of FB stays. -/
def Obligations.RunWritesItsPixels : Prop :=
  ∀ (s : State) (n : Byte), s.fault = none → s.fb.wf = true →
    s.idx.toNat + n.toNat * s.cfg.pixelScale ≤ fbSize →
    ∃ m : Memory, m.wf = true ∧
      (∀ i, m.read i = if s.idx.toNat ≤ i ∧ i < s.idx.toNat + n.toNat * s.cfg.pixelScale
        then (if s.color = true then 0xFF else 0x00) else s.fb.read i) ∧
      exec (.run n) s = .next { s with
        fb := m, run := n, offset := s.offset + 1, rem := 0,
        idx := BitVec.ofNat 11 (s.idx.toNat + n.toNat * s.cfg.pixelScale), color := !s.color }

/-- 42_frame_decoder.md R194: a run of 0 writes nothing, leaves IDX, advances OFFSET by one and flips the color. -/
def Obligations.ARunOfZeroOnlyFlipsTheColor : Prop :=
  ∀ s : State, s.fault = none → s.idx.toNat ≤ fbSize →
    exec (.run 0) s = .next { s with run := 0, offset := s.offset + 1, rem := 0, color := !s.color }

/-- 42_frame_decoder.md R196: RUN of a run that does not fit writes nothing and raises FLT_OVERRUN; IDX and the color stay. -/
def Obligations.ARunThatDoesNotFitWritesNothing : Prop :=
  ∀ (s : State) (n : Byte), s.fault = none → fbSize < s.idx.toNat + n.toNat * s.cfg.pixelScale →
    exec (.run n) s = .next { s with
      run := n, offset := s.offset + 1, rem := n.toNat * s.cfg.pixelScale, fault := some .overrun }

/-! ### The tick -/

/-- 60_exceptions.md R231, R234: a tick event is ignored while TICK_EN = 0, and sets TICK_PEND and nothing else otherwise, at any
moment, whatever the engine is doing: as a line that lands, and as the instruction TICK where the engine is not idle or the tick
not armed. (Where an accepted tick has not begun, the instruction TICK is its service: log entry 20.) -/
def Obligations.ATickIsIgnoredOrStaysPending : Prop :=
  ∀ s : State,
    (s.seq ≠ [.tick] → (s.tickEn = false → exec .tick s = .next s) ∧
      (s.tickEn = true → s.busy = true → exec .tick s = .next { s with tickPend := true })) ∧
    ∀ m rest, s.cfg.wf = true → s.lineLands = true → s.script = ⟨m, .tick⟩ :: rest →
      (s.tickEn = false → step s = .next { s with script := rest }) ∧
      (s.tickEn = true → step s = .next { s with script := rest, tickPend := true })

/-- 43_playback_scheduler.md R211 to R214: TICK, from an idle, armed and initialized block with a frame of the stream at the cursor
(at 0 where FRAME = TOTAL_FRAMES): every field after it. -/
def Obligations.TickPlaysOneFrame : Prop :=
  ∀ (s : State) (runs : List Byte), s.cfg.wf = true → s.seq = [] → s.busy = false → s.tickEn = true → s.Clear →
    s.initDone = true →
    frameAt s.cfg (if s.frame.toNat = s.cfg.totalFrames then 0 else s.offset.toNat) runs →
    ∃ m : Memory, m.wf = true ∧ shows m s.cfg.pixelScale runs ∧
      exec .tick s = .next { s with
        playing := true, fb := m,
        offset := (if s.frame.toNat = s.cfg.totalFrames then 0 else s.offset) + BitVec.ofNat 32 runs.length,
        frame := (if s.frame.toNat = s.cfg.totalFrames then 0 else s.frame) + 1,
        idx := BitVec.ofNat 11 fbSize, color := runs.length % 2 == 1, run := runs.getLast?.getD s.run, rem := 0,
        page := 8, col := BitVec.ofNat 8 displayW,
        txbuf := { s.txbuf with b0 := s.cfg.ctrlCmdSingle, b1 := s.cfg.cmdColHi }, txlen := 2, txptr := 2,
        wire := s.wire ++ updateTrace s.cfg m, tickPend := false, hb := !s.hb }

/-- 43_playback_scheduler.md R220: a tick served before INIT is FLT_NOT_INIT as the first step of TICK, before any state changes
(60_exceptions.md R243). That exec of TICK on an idle block also raises the event (R231) and accepts it (R233), so that TICK_PEND,
BUSY and SEQ are set, is log entry 20. -/
def Obligations.ATickBeforeInitFaults : Prop :=
  ∀ s : State, s.seq = [] → s.busy = false → s.tickEn = true → s.fault = none → s.undisturbed = true →
    s.busQuiet = true → s.initDone = false →
    exec .tick s = .next { s with tickPend := true, seq := [.tick], busy := true, fault := some .notInit }

/-- 43_playback_scheduler.md R213, R214, 60_exceptions.md R234, R236: the last three steps of TICK. An event before the clearing
step is absorbed; one after it stays pending, and is accepted at once when TICK ends. -/
def Obligations.OnlyAnEventAfterTheClearingStepIsOwed : Prop :=
  ∀ s : State, s.cfg.wf = true → s.undisturbed = true → s.fault = none → s.tickEn = true →
    (s.seq = [.tickCount, .tickClear, .tickBeat] →
      step s = .next { s with frame := s.frame + 1, seq := [.tickClear, .tickBeat], busy := true }) ∧
    (s.seq = [.tickClear, .tickBeat] →
      step (tickIn s) = .next { s with tickPend := false, seq := [.tickBeat], busy := true }) ∧
    (s.seq = [.tickBeat] →
      step s = .next { s with hb := !s.hb, seq := [], busy := false } ∧
      ∃ t, step (tickIn s) = .next t ∧ t.hb = !s.hb ∧ t.acceptable = true)

/-! ### Playback -/

/-- 43_playback_scheduler.md R212 under K4 (00_scope.md R8): the frame counter has reached TOTAL_FRAMES exactly where the cursor has
reached the end of the stream. -/
def Obligations.TheLoopRestartsAtTheEndOfTheStream : Prop :=
  ∀ (c : Config) (k o : Nat), c.wf = true → c.streamOk = true → k ≤ c.totalFrames → c.frameStart k = some o →
    (k = c.totalFrames ↔ o = c.streamLen)

/-- 10_state.md R53 under K4: a served tick that starts with FRAME at most TOTAL_FRAMES and OFFSET = o_FRAME ends so, with the image
of frame FRAME - 1 in FB, that image sent, no verdict, no transaction open and HB complemented. -/
def Obligations.ATickKeepsCursorAndCounterTogether : Prop :=
  ∀ s : State, s.cfg.wf = true → s.cfg.streamOk = true → s.seq = [] → s.busy = false → s.tickEn = true → s.Clear →
    s.initDone = true → s.frame.toNat ≤ s.cfg.totalFrames → s.cfg.frameStart s.frame.toNat = some s.offset.toNat →
    ∃ t, exec .tick s = .next t ∧
      t.frame.toNat = (if s.frame.toNat = s.cfg.totalFrames then 0 else s.frame.toNat) + 1 ∧
      t.frame.toNat ≤ t.cfg.totalFrames ∧ t.cfg.frameStart t.frame.toNat = some t.offset.toNat ∧
      (∃ o runs, t.cfg.frameStart (t.frame.toNat - 1) = some o ∧ frameAt t.cfg o runs ∧
        o + runs.length = t.offset.toNat ∧ shows t.fb t.cfg.pixelScale runs) ∧
      t.wire = s.wire ++ updateTrace s.cfg t.fb ∧ t.hb = !s.hb ∧ t.tickPend = false ∧ t.seq = [] ∧ t.busy = false ∧
      t.Clear ∧ t.cfg = s.cfg ∧ t.tickEn = true ∧ t.initDone = true

/-- 43_playback_scheduler.md R218 under K4: `n` + 1 served ticks one after another, from FRAME = 0 and OFFSET = 0, play frames 0, 1,
2, … and loop for ever: after them FRAME = (n mod T) + 1, OFFSET = o_FRAME, HB has changed `n` + 1 times and WIRE has grown by
the UPDATE traces of the frames in order. -/
def Obligations.PlaybackLoopsForEver : Prop :=
  ∀ s : State, s.cfg.wf = true → s.cfg.streamOk = true → s.seq = [] → s.busy = false → s.tickEn = true → s.Clear →
    s.initDone = true → s.frame = 0 → s.offset = 0 →
    ∃ picture : Nat → Memory,
      (∀ k, k < s.cfg.totalFrames → ∃ o runs, s.cfg.frameStart k = some o ∧ frameAt s.cfg o runs ∧
        shows (picture k) s.cfg.pixelScale runs) ∧
      ∀ n, ∃ t, serveTicks (n + 1) s = .next t ∧
        t.frame.toNat = n % s.cfg.totalFrames + 1 ∧ s.cfg.frameStart t.frame.toNat = some t.offset.toNat ∧
        t.hb = (s.hb ^^ (n % 2 == 0)) ∧ t.fault = none ∧ t.busy = false ∧
        t.wire = s.wire ++ (List.range (n + 1)).flatMap fun j =>
          updateTrace s.cfg (picture (j % s.cfg.totalFrames))

end Statements
end

