-- ==== Sys2Proof/Laws/State.lean ====
section
/-! SUPPORT. The state's fields after each named update: one lemma per field, true by rfl, so that no later proof unfolds a
record update. -/

namespace Sys2Proof.Machine

@[simp] theorem tickIn_cfg (s : State) : (tickIn s).cfg = s.cfg := rfl
@[simp] theorem tickIn_fb (s : State) : (tickIn s).fb = s.fb := rfl
@[simp] theorem tickIn_offset (s : State) : (tickIn s).offset = s.offset := rfl
@[simp] theorem tickIn_frame (s : State) : (tickIn s).frame = s.frame := rfl
@[simp] theorem tickIn_idx (s : State) : (tickIn s).idx = s.idx := rfl
@[simp] theorem tickIn_color (s : State) : (tickIn s).color = s.color := rfl
@[simp] theorem tickIn_run (s : State) : (tickIn s).run = s.run := rfl
@[simp] theorem tickIn_rem (s : State) : (tickIn s).rem = s.rem := rfl
@[simp] theorem tickIn_page (s : State) : (tickIn s).page = s.page := rfl
@[simp] theorem tickIn_col (s : State) : (tickIn s).col = s.col := rfl
@[simp] theorem tickIn_txbuf (s : State) : (tickIn s).txbuf = s.txbuf := rfl
@[simp] theorem tickIn_txlen (s : State) : (tickIn s).txlen = s.txlen := rfl
@[simp] theorem tickIn_txptr (s : State) : (tickIn s).txptr = s.txptr := rfl
@[simp] theorem tickIn_initptr (s : State) : (tickIn s).initptr = s.initptr := rfl
@[simp] theorem tickIn_argPage (s : State) : (tickIn s).argPage = s.argPage := rfl
@[simp] theorem tickIn_seq (s : State) : (tickIn s).seq = s.seq := rfl
@[simp] theorem tickIn_busy (s : State) : (tickIn s).busy = s.busy := rfl
@[simp] theorem tickIn_startReq (s : State) : (tickIn s).startReq = s.startReq := rfl
@[simp] theorem tickIn_fStart (s : State) : (tickIn s).fStart = s.fStart := rfl
@[simp] theorem tickIn_fAddr (s : State) : (tickIn s).fAddr = s.fAddr := rfl
@[simp] theorem tickIn_fBtc (s : State) : (tickIn s).fBtc = s.fBtc := rfl
@[simp] theorem tickIn_inXact (s : State) : (tickIn s).inXact = s.inXact := rfl
@[simp] theorem tickIn_await (s : State) : (tickIn s).await = s.await := rfl
@[simp] theorem tickIn_tickPend (s : State) : (tickIn s).tickPend = (s.tickPend || s.tickEn) := rfl
@[simp] theorem tickIn_tickEn (s : State) : (tickIn s).tickEn = s.tickEn := rfl
@[simp] theorem tickIn_playing (s : State) : (tickIn s).playing = s.playing := rfl
@[simp] theorem tickIn_initDone (s : State) : (tickIn s).initDone = s.initDone := rfl
@[simp] theorem tickIn_hb (s : State) : (tickIn s).hb = s.hb := rfl
@[simp] theorem tickIn_fault (s : State) : (tickIn s).fault = s.fault := rfl
@[simp] theorem tickIn_wire (s : State) : (tickIn s).wire = s.wire := rfl
@[simp] theorem tickIn_device (s : State) : (tickIn s).device = s.device := rfl
@[simp] theorem tickIn_script (s : State) : (tickIn s).script = s.script := rfl
@[simp] theorem tickIn_hostData (s : State) : (tickIn s).hostData = s.hostData := rfl

@[simp] theorem raiseFault_cfg (code : FaultCode) (s : State) : (raiseFault code s).cfg = s.cfg := rfl
@[simp] theorem raiseFault_fb (code : FaultCode) (s : State) : (raiseFault code s).fb = s.fb := rfl
@[simp] theorem raiseFault_offset (code : FaultCode) (s : State) : (raiseFault code s).offset = s.offset := rfl
@[simp] theorem raiseFault_frame (code : FaultCode) (s : State) : (raiseFault code s).frame = s.frame := rfl
@[simp] theorem raiseFault_idx (code : FaultCode) (s : State) : (raiseFault code s).idx = s.idx := rfl
@[simp] theorem raiseFault_color (code : FaultCode) (s : State) : (raiseFault code s).color = s.color := rfl
@[simp] theorem raiseFault_run (code : FaultCode) (s : State) : (raiseFault code s).run = s.run := rfl
@[simp] theorem raiseFault_rem (code : FaultCode) (s : State) : (raiseFault code s).rem = s.rem := rfl
@[simp] theorem raiseFault_page (code : FaultCode) (s : State) : (raiseFault code s).page = s.page := rfl
@[simp] theorem raiseFault_col (code : FaultCode) (s : State) : (raiseFault code s).col = s.col := rfl
@[simp] theorem raiseFault_txbuf (code : FaultCode) (s : State) : (raiseFault code s).txbuf = s.txbuf := rfl
@[simp] theorem raiseFault_txlen (code : FaultCode) (s : State) : (raiseFault code s).txlen = s.txlen := rfl
@[simp] theorem raiseFault_txptr (code : FaultCode) (s : State) : (raiseFault code s).txptr = s.txptr := rfl
@[simp] theorem raiseFault_initptr (code : FaultCode) (s : State) : (raiseFault code s).initptr = s.initptr := rfl
@[simp] theorem raiseFault_argPage (code : FaultCode) (s : State) : (raiseFault code s).argPage = s.argPage := rfl
@[simp] theorem raiseFault_seq (code : FaultCode) (s : State) : (raiseFault code s).seq = s.seq := rfl
@[simp] theorem raiseFault_busy (code : FaultCode) (s : State) : (raiseFault code s).busy = s.busy := rfl
@[simp] theorem raiseFault_startReq (code : FaultCode) (s : State) : (raiseFault code s).startReq = s.startReq := rfl
@[simp] theorem raiseFault_fStart (code : FaultCode) (s : State) : (raiseFault code s).fStart = s.fStart := rfl
@[simp] theorem raiseFault_fAddr (code : FaultCode) (s : State) : (raiseFault code s).fAddr = s.fAddr := rfl
@[simp] theorem raiseFault_fBtc (code : FaultCode) (s : State) : (raiseFault code s).fBtc = s.fBtc := rfl
@[simp] theorem raiseFault_inXact (code : FaultCode) (s : State) : (raiseFault code s).inXact = s.inXact := rfl
@[simp] theorem raiseFault_await (code : FaultCode) (s : State) : (raiseFault code s).await = s.await := rfl
@[simp] theorem raiseFault_tickPend (code : FaultCode) (s : State) : (raiseFault code s).tickPend = s.tickPend := rfl
@[simp] theorem raiseFault_tickEn (code : FaultCode) (s : State) : (raiseFault code s).tickEn = s.tickEn := rfl
@[simp] theorem raiseFault_playing (code : FaultCode) (s : State) : (raiseFault code s).playing = s.playing := rfl
@[simp] theorem raiseFault_initDone (code : FaultCode) (s : State) : (raiseFault code s).initDone = s.initDone := rfl
@[simp] theorem raiseFault_hb (code : FaultCode) (s : State) : (raiseFault code s).hb = s.hb := rfl
@[simp] theorem raiseFault_fault (code : FaultCode) (s : State) : (raiseFault code s).fault = (s.fault.or (some code)) := rfl
@[simp] theorem raiseFault_wire (code : FaultCode) (s : State) : (raiseFault code s).wire = s.wire := rfl
@[simp] theorem raiseFault_device (code : FaultCode) (s : State) : (raiseFault code s).device = s.device := rfl
@[simp] theorem raiseFault_script (code : FaultCode) (s : State) : (raiseFault code s).script = s.script := rfl
@[simp] theorem raiseFault_hostData (code : FaultCode) (s : State) : (raiseFault code s).hostData = s.hostData := rfl

@[simp] theorem goOn_cfg (k : List Work) (s : State) : (goOn k s).cfg = s.cfg := rfl
@[simp] theorem goOn_fb (k : List Work) (s : State) : (goOn k s).fb = s.fb := rfl
@[simp] theorem goOn_offset (k : List Work) (s : State) : (goOn k s).offset = s.offset := rfl
@[simp] theorem goOn_frame (k : List Work) (s : State) : (goOn k s).frame = s.frame := rfl
@[simp] theorem goOn_idx (k : List Work) (s : State) : (goOn k s).idx = s.idx := rfl
@[simp] theorem goOn_color (k : List Work) (s : State) : (goOn k s).color = s.color := rfl
@[simp] theorem goOn_run (k : List Work) (s : State) : (goOn k s).run = s.run := rfl
@[simp] theorem goOn_rem (k : List Work) (s : State) : (goOn k s).rem = s.rem := rfl
@[simp] theorem goOn_page (k : List Work) (s : State) : (goOn k s).page = s.page := rfl
@[simp] theorem goOn_col (k : List Work) (s : State) : (goOn k s).col = s.col := rfl
@[simp] theorem goOn_txbuf (k : List Work) (s : State) : (goOn k s).txbuf = s.txbuf := rfl
@[simp] theorem goOn_txlen (k : List Work) (s : State) : (goOn k s).txlen = s.txlen := rfl
@[simp] theorem goOn_txptr (k : List Work) (s : State) : (goOn k s).txptr = s.txptr := rfl
@[simp] theorem goOn_initptr (k : List Work) (s : State) : (goOn k s).initptr = s.initptr := rfl
@[simp] theorem goOn_argPage (k : List Work) (s : State) : (goOn k s).argPage = s.argPage := rfl
@[simp] theorem goOn_seq (k : List Work) (s : State) : (goOn k s).seq = k := rfl
@[simp] theorem goOn_busy (k : List Work) (s : State) : (goOn k s).busy = (!k.isEmpty) := rfl
@[simp] theorem goOn_startReq (k : List Work) (s : State) : (goOn k s).startReq = s.startReq := rfl
@[simp] theorem goOn_fStart (k : List Work) (s : State) : (goOn k s).fStart = s.fStart := rfl
@[simp] theorem goOn_fAddr (k : List Work) (s : State) : (goOn k s).fAddr = s.fAddr := rfl
@[simp] theorem goOn_fBtc (k : List Work) (s : State) : (goOn k s).fBtc = s.fBtc := rfl
@[simp] theorem goOn_inXact (k : List Work) (s : State) : (goOn k s).inXact = s.inXact := rfl
@[simp] theorem goOn_await (k : List Work) (s : State) : (goOn k s).await = s.await := rfl
@[simp] theorem goOn_tickPend (k : List Work) (s : State) : (goOn k s).tickPend = s.tickPend := rfl
@[simp] theorem goOn_tickEn (k : List Work) (s : State) : (goOn k s).tickEn = s.tickEn := rfl
@[simp] theorem goOn_playing (k : List Work) (s : State) : (goOn k s).playing = s.playing := rfl
@[simp] theorem goOn_initDone (k : List Work) (s : State) : (goOn k s).initDone = s.initDone := rfl
@[simp] theorem goOn_hb (k : List Work) (s : State) : (goOn k s).hb = s.hb := rfl
@[simp] theorem goOn_fault (k : List Work) (s : State) : (goOn k s).fault = s.fault := rfl
@[simp] theorem goOn_wire (k : List Work) (s : State) : (goOn k s).wire = s.wire := rfl
@[simp] theorem goOn_device (k : List Work) (s : State) : (goOn k s).device = s.device := rfl
@[simp] theorem goOn_script (k : List Work) (s : State) : (goOn k s).script = s.script := rfl
@[simp] theorem goOn_hostData (k : List Work) (s : State) : (goOn k s).hostData = s.hostData := rfl

@[simp] theorem begin_cfg (w : Work) (s : State) : (begin w s).cfg = s.cfg := rfl
@[simp] theorem begin_fb (w : Work) (s : State) : (begin w s).fb = s.fb := rfl
@[simp] theorem begin_offset (w : Work) (s : State) : (begin w s).offset = s.offset := rfl
@[simp] theorem begin_frame (w : Work) (s : State) : (begin w s).frame = s.frame := rfl
@[simp] theorem begin_idx (w : Work) (s : State) : (begin w s).idx = s.idx := rfl
@[simp] theorem begin_color (w : Work) (s : State) : (begin w s).color = s.color := rfl
@[simp] theorem begin_run (w : Work) (s : State) : (begin w s).run = s.run := rfl
@[simp] theorem begin_rem (w : Work) (s : State) : (begin w s).rem = s.rem := rfl
@[simp] theorem begin_page (w : Work) (s : State) : (begin w s).page = s.page := rfl
@[simp] theorem begin_col (w : Work) (s : State) : (begin w s).col = s.col := rfl
@[simp] theorem begin_txbuf (w : Work) (s : State) : (begin w s).txbuf = s.txbuf := rfl
@[simp] theorem begin_txlen (w : Work) (s : State) : (begin w s).txlen = s.txlen := rfl
@[simp] theorem begin_txptr (w : Work) (s : State) : (begin w s).txptr = s.txptr := rfl
@[simp] theorem begin_initptr (w : Work) (s : State) : (begin w s).initptr = s.initptr := rfl
@[simp] theorem begin_argPage (w : Work) (s : State) : (begin w s).argPage = s.argPage := rfl
@[simp] theorem begin_seq (w : Work) (s : State) : (begin w s).seq = ([w]) := rfl
@[simp] theorem begin_busy (w : Work) (s : State) : (begin w s).busy = true := rfl
@[simp] theorem begin_startReq (w : Work) (s : State) : (begin w s).startReq = s.startReq := rfl
@[simp] theorem begin_fStart (w : Work) (s : State) : (begin w s).fStart = s.fStart := rfl
@[simp] theorem begin_fAddr (w : Work) (s : State) : (begin w s).fAddr = s.fAddr := rfl
@[simp] theorem begin_fBtc (w : Work) (s : State) : (begin w s).fBtc = s.fBtc := rfl
@[simp] theorem begin_inXact (w : Work) (s : State) : (begin w s).inXact = s.inXact := rfl
@[simp] theorem begin_await (w : Work) (s : State) : (begin w s).await = s.await := rfl
@[simp] theorem begin_tickPend (w : Work) (s : State) : (begin w s).tickPend = s.tickPend := rfl
@[simp] theorem begin_tickEn (w : Work) (s : State) : (begin w s).tickEn = s.tickEn := rfl
@[simp] theorem begin_playing (w : Work) (s : State) : (begin w s).playing = s.playing := rfl
@[simp] theorem begin_initDone (w : Work) (s : State) : (begin w s).initDone = s.initDone := rfl
@[simp] theorem begin_hb (w : Work) (s : State) : (begin w s).hb = s.hb := rfl
@[simp] theorem begin_fault (w : Work) (s : State) : (begin w s).fault = s.fault := rfl
@[simp] theorem begin_wire (w : Work) (s : State) : (begin w s).wire = s.wire := rfl
@[simp] theorem begin_device (w : Work) (s : State) : (begin w s).device = s.device := rfl
@[simp] theorem begin_script (w : Work) (s : State) : (begin w s).script = s.script := rfl
@[simp] theorem begin_hostData (w : Work) (s : State) : (begin w s).hostData = s.hostData := rfl

@[simp] theorem busStart_cfg (k : List Work) (s : State) : (busStart k s).cfg = s.cfg := rfl
@[simp] theorem busStart_fb (k : List Work) (s : State) : (busStart k s).fb = s.fb := rfl
@[simp] theorem busStart_offset (k : List Work) (s : State) : (busStart k s).offset = s.offset := rfl
@[simp] theorem busStart_frame (k : List Work) (s : State) : (busStart k s).frame = s.frame := rfl
@[simp] theorem busStart_idx (k : List Work) (s : State) : (busStart k s).idx = s.idx := rfl
@[simp] theorem busStart_color (k : List Work) (s : State) : (busStart k s).color = s.color := rfl
@[simp] theorem busStart_run (k : List Work) (s : State) : (busStart k s).run = s.run := rfl
@[simp] theorem busStart_rem (k : List Work) (s : State) : (busStart k s).rem = s.rem := rfl
@[simp] theorem busStart_page (k : List Work) (s : State) : (busStart k s).page = s.page := rfl
@[simp] theorem busStart_col (k : List Work) (s : State) : (busStart k s).col = s.col := rfl
@[simp] theorem busStart_txbuf (k : List Work) (s : State) : (busStart k s).txbuf = s.txbuf := rfl
@[simp] theorem busStart_txlen (k : List Work) (s : State) : (busStart k s).txlen = s.txlen := rfl
@[simp] theorem busStart_txptr (k : List Work) (s : State) : (busStart k s).txptr = s.txptr := rfl
@[simp] theorem busStart_initptr (k : List Work) (s : State) : (busStart k s).initptr = s.initptr := rfl
@[simp] theorem busStart_argPage (k : List Work) (s : State) : (busStart k s).argPage = s.argPage := rfl
@[simp] theorem busStart_seq (k : List Work) (s : State) : (busStart k s).seq = (.waitStart :: k) := rfl
@[simp] theorem busStart_busy (k : List Work) (s : State) : (busStart k s).busy = true := rfl
@[simp] theorem busStart_startReq (k : List Work) (s : State) : (busStart k s).startReq = true := rfl
@[simp] theorem busStart_fStart (k : List Work) (s : State) : (busStart k s).fStart = s.fStart := rfl
@[simp] theorem busStart_fAddr (k : List Work) (s : State) : (busStart k s).fAddr = s.fAddr := rfl
@[simp] theorem busStart_fBtc (k : List Work) (s : State) : (busStart k s).fBtc = s.fBtc := rfl
@[simp] theorem busStart_inXact (k : List Work) (s : State) : (busStart k s).inXact = s.inXact := rfl
@[simp] theorem busStart_await (k : List Work) (s : State) : (busStart k s).await = s.await := rfl
@[simp] theorem busStart_tickPend (k : List Work) (s : State) : (busStart k s).tickPend = s.tickPend := rfl
@[simp] theorem busStart_tickEn (k : List Work) (s : State) : (busStart k s).tickEn = s.tickEn := rfl
@[simp] theorem busStart_playing (k : List Work) (s : State) : (busStart k s).playing = s.playing := rfl
@[simp] theorem busStart_initDone (k : List Work) (s : State) : (busStart k s).initDone = s.initDone := rfl
@[simp] theorem busStart_hb (k : List Work) (s : State) : (busStart k s).hb = s.hb := rfl
@[simp] theorem busStart_fault (k : List Work) (s : State) : (busStart k s).fault = s.fault := rfl
@[simp] theorem busStart_wire (k : List Work) (s : State) : (busStart k s).wire = s.wire := rfl
@[simp] theorem busStart_device (k : List Work) (s : State) : (busStart k s).device = s.device := rfl
@[simp] theorem busStart_script (k : List Work) (s : State) : (busStart k s).script = s.script := rfl
@[simp] theorem busStart_hostData (k : List Work) (s : State) : (busStart k s).hostData = s.hostData := rfl

@[simp] theorem busAddr_cfg (k : List Work) (s : State) : (busAddr k s).cfg = s.cfg := rfl
@[simp] theorem busAddr_fb (k : List Work) (s : State) : (busAddr k s).fb = s.fb := rfl
@[simp] theorem busAddr_offset (k : List Work) (s : State) : (busAddr k s).offset = s.offset := rfl
@[simp] theorem busAddr_frame (k : List Work) (s : State) : (busAddr k s).frame = s.frame := rfl
@[simp] theorem busAddr_idx (k : List Work) (s : State) : (busAddr k s).idx = s.idx := rfl
@[simp] theorem busAddr_color (k : List Work) (s : State) : (busAddr k s).color = s.color := rfl
@[simp] theorem busAddr_run (k : List Work) (s : State) : (busAddr k s).run = s.run := rfl
@[simp] theorem busAddr_rem (k : List Work) (s : State) : (busAddr k s).rem = s.rem := rfl
@[simp] theorem busAddr_page (k : List Work) (s : State) : (busAddr k s).page = s.page := rfl
@[simp] theorem busAddr_col (k : List Work) (s : State) : (busAddr k s).col = s.col := rfl
@[simp] theorem busAddr_txbuf (k : List Work) (s : State) : (busAddr k s).txbuf = s.txbuf := rfl
@[simp] theorem busAddr_txlen (k : List Work) (s : State) : (busAddr k s).txlen = s.txlen := rfl
@[simp] theorem busAddr_txptr (k : List Work) (s : State) : (busAddr k s).txptr = s.txptr := rfl
@[simp] theorem busAddr_initptr (k : List Work) (s : State) : (busAddr k s).initptr = s.initptr := rfl
@[simp] theorem busAddr_argPage (k : List Work) (s : State) : (busAddr k s).argPage = s.argPage := rfl
@[simp] theorem busAddr_seq (k : List Work) (s : State) : (busAddr k s).seq = (.waitAddr :: k) := rfl
@[simp] theorem busAddr_busy (k : List Work) (s : State) : (busAddr k s).busy = true := rfl
@[simp] theorem busAddr_startReq (k : List Work) (s : State) : (busAddr k s).startReq = s.startReq := rfl
@[simp] theorem busAddr_fStart (k : List Work) (s : State) : (busAddr k s).fStart = false := rfl
@[simp] theorem busAddr_fAddr (k : List Work) (s : State) : (busAddr k s).fAddr = s.fAddr := rfl
@[simp] theorem busAddr_fBtc (k : List Work) (s : State) : (busAddr k s).fBtc = s.fBtc := rfl
@[simp] theorem busAddr_inXact (k : List Work) (s : State) : (busAddr k s).inXact = s.inXact := rfl
@[simp] theorem busAddr_await (k : List Work) (s : State) : (busAddr k s).await = (.addr) := rfl
@[simp] theorem busAddr_tickPend (k : List Work) (s : State) : (busAddr k s).tickPend = s.tickPend := rfl
@[simp] theorem busAddr_tickEn (k : List Work) (s : State) : (busAddr k s).tickEn = s.tickEn := rfl
@[simp] theorem busAddr_playing (k : List Work) (s : State) : (busAddr k s).playing = s.playing := rfl
@[simp] theorem busAddr_initDone (k : List Work) (s : State) : (busAddr k s).initDone = s.initDone := rfl
@[simp] theorem busAddr_hb (k : List Work) (s : State) : (busAddr k s).hb = s.hb := rfl
@[simp] theorem busAddr_fault (k : List Work) (s : State) : (busAddr k s).fault = s.fault := rfl
@[simp] theorem busAddr_wire (k : List Work) (s : State) : (busAddr k s).wire = (s.wire ++ [.addr (addressByte s.cfg)]) := rfl
@[simp] theorem busAddr_device (k : List Work) (s : State) : (busAddr k s).device = s.device := rfl
@[simp] theorem busAddr_script (k : List Work) (s : State) : (busAddr k s).script = s.script := rfl
@[simp] theorem busAddr_hostData (k : List Work) (s : State) : (busAddr k s).hostData = s.hostData := rfl

@[simp] theorem busByte_cfg (b : Byte) (k : List Work) (s : State) : (busByte b k s).cfg = s.cfg := rfl
@[simp] theorem busByte_fb (b : Byte) (k : List Work) (s : State) : (busByte b k s).fb = s.fb := rfl
@[simp] theorem busByte_offset (b : Byte) (k : List Work) (s : State) : (busByte b k s).offset = s.offset := rfl
@[simp] theorem busByte_frame (b : Byte) (k : List Work) (s : State) : (busByte b k s).frame = s.frame := rfl
@[simp] theorem busByte_idx (b : Byte) (k : List Work) (s : State) : (busByte b k s).idx = s.idx := rfl
@[simp] theorem busByte_color (b : Byte) (k : List Work) (s : State) : (busByte b k s).color = s.color := rfl
@[simp] theorem busByte_run (b : Byte) (k : List Work) (s : State) : (busByte b k s).run = s.run := rfl
@[simp] theorem busByte_rem (b : Byte) (k : List Work) (s : State) : (busByte b k s).rem = s.rem := rfl
@[simp] theorem busByte_page (b : Byte) (k : List Work) (s : State) : (busByte b k s).page = s.page := rfl
@[simp] theorem busByte_col (b : Byte) (k : List Work) (s : State) : (busByte b k s).col = s.col := rfl
@[simp] theorem busByte_txbuf (b : Byte) (k : List Work) (s : State) : (busByte b k s).txbuf = s.txbuf := rfl
@[simp] theorem busByte_txlen (b : Byte) (k : List Work) (s : State) : (busByte b k s).txlen = s.txlen := rfl
@[simp] theorem busByte_txptr (b : Byte) (k : List Work) (s : State) : (busByte b k s).txptr = s.txptr := rfl
@[simp] theorem busByte_initptr (b : Byte) (k : List Work) (s : State) : (busByte b k s).initptr = s.initptr := rfl
@[simp] theorem busByte_argPage (b : Byte) (k : List Work) (s : State) : (busByte b k s).argPage = s.argPage := rfl
@[simp] theorem busByte_seq (b : Byte) (k : List Work) (s : State) : (busByte b k s).seq = (.waitBtc :: k) := rfl
@[simp] theorem busByte_busy (b : Byte) (k : List Work) (s : State) : (busByte b k s).busy = true := rfl
@[simp] theorem busByte_startReq (b : Byte) (k : List Work) (s : State) : (busByte b k s).startReq = s.startReq := rfl
@[simp] theorem busByte_fStart (b : Byte) (k : List Work) (s : State) : (busByte b k s).fStart = s.fStart := rfl
@[simp] theorem busByte_fAddr (b : Byte) (k : List Work) (s : State) : (busByte b k s).fAddr = false := rfl
@[simp] theorem busByte_fBtc (b : Byte) (k : List Work) (s : State) : (busByte b k s).fBtc = false := rfl
@[simp] theorem busByte_inXact (b : Byte) (k : List Work) (s : State) : (busByte b k s).inXact = s.inXact := rfl
@[simp] theorem busByte_await (b : Byte) (k : List Work) (s : State) : (busByte b k s).await = (.byte) := rfl
@[simp] theorem busByte_tickPend (b : Byte) (k : List Work) (s : State) : (busByte b k s).tickPend = s.tickPend := rfl
@[simp] theorem busByte_tickEn (b : Byte) (k : List Work) (s : State) : (busByte b k s).tickEn = s.tickEn := rfl
@[simp] theorem busByte_playing (b : Byte) (k : List Work) (s : State) : (busByte b k s).playing = s.playing := rfl
@[simp] theorem busByte_initDone (b : Byte) (k : List Work) (s : State) : (busByte b k s).initDone = s.initDone := rfl
@[simp] theorem busByte_hb (b : Byte) (k : List Work) (s : State) : (busByte b k s).hb = s.hb := rfl
@[simp] theorem busByte_fault (b : Byte) (k : List Work) (s : State) : (busByte b k s).fault = s.fault := rfl
@[simp] theorem busByte_wire (b : Byte) (k : List Work) (s : State) : (busByte b k s).wire = (s.wire ++ [.data b]) := rfl
@[simp] theorem busByte_device (b : Byte) (k : List Work) (s : State) : (busByte b k s).device = s.device := rfl
@[simp] theorem busByte_script (b : Byte) (k : List Work) (s : State) : (busByte b k s).script = s.script := rfl
@[simp] theorem busByte_hostData (b : Byte) (k : List Work) (s : State) : (busByte b k s).hostData = s.hostData := rfl

@[simp] theorem busStop_cfg (k : List Work) (s : State) : (busStop k s).cfg = s.cfg := rfl
@[simp] theorem busStop_fb (k : List Work) (s : State) : (busStop k s).fb = s.fb := rfl
@[simp] theorem busStop_offset (k : List Work) (s : State) : (busStop k s).offset = s.offset := rfl
@[simp] theorem busStop_frame (k : List Work) (s : State) : (busStop k s).frame = s.frame := rfl
@[simp] theorem busStop_idx (k : List Work) (s : State) : (busStop k s).idx = s.idx := rfl
@[simp] theorem busStop_color (k : List Work) (s : State) : (busStop k s).color = s.color := rfl
@[simp] theorem busStop_run (k : List Work) (s : State) : (busStop k s).run = s.run := rfl
@[simp] theorem busStop_rem (k : List Work) (s : State) : (busStop k s).rem = s.rem := rfl
@[simp] theorem busStop_page (k : List Work) (s : State) : (busStop k s).page = s.page := rfl
@[simp] theorem busStop_col (k : List Work) (s : State) : (busStop k s).col = s.col := rfl
@[simp] theorem busStop_txbuf (k : List Work) (s : State) : (busStop k s).txbuf = s.txbuf := rfl
@[simp] theorem busStop_txlen (k : List Work) (s : State) : (busStop k s).txlen = s.txlen := rfl
@[simp] theorem busStop_txptr (k : List Work) (s : State) : (busStop k s).txptr = s.txptr := rfl
@[simp] theorem busStop_initptr (k : List Work) (s : State) : (busStop k s).initptr = s.initptr := rfl
@[simp] theorem busStop_argPage (k : List Work) (s : State) : (busStop k s).argPage = s.argPage := rfl
@[simp] theorem busStop_seq (k : List Work) (s : State) : (busStop k s).seq = k := rfl
@[simp] theorem busStop_busy (k : List Work) (s : State) : (busStop k s).busy = (!k.isEmpty) := rfl
@[simp] theorem busStop_startReq (k : List Work) (s : State) : (busStop k s).startReq = s.startReq := rfl
@[simp] theorem busStop_fStart (k : List Work) (s : State) : (busStop k s).fStart = s.fStart := rfl
@[simp] theorem busStop_fAddr (k : List Work) (s : State) : (busStop k s).fAddr = s.fAddr := rfl
@[simp] theorem busStop_fBtc (k : List Work) (s : State) : (busStop k s).fBtc = false := rfl
@[simp] theorem busStop_inXact (k : List Work) (s : State) : (busStop k s).inXact = false := rfl
@[simp] theorem busStop_await (k : List Work) (s : State) : (busStop k s).await = s.await := rfl
@[simp] theorem busStop_tickPend (k : List Work) (s : State) : (busStop k s).tickPend = s.tickPend := rfl
@[simp] theorem busStop_tickEn (k : List Work) (s : State) : (busStop k s).tickEn = s.tickEn := rfl
@[simp] theorem busStop_playing (k : List Work) (s : State) : (busStop k s).playing = s.playing := rfl
@[simp] theorem busStop_initDone (k : List Work) (s : State) : (busStop k s).initDone = s.initDone := rfl
@[simp] theorem busStop_hb (k : List Work) (s : State) : (busStop k s).hb = s.hb := rfl
@[simp] theorem busStop_fault (k : List Work) (s : State) : (busStop k s).fault = s.fault := rfl
@[simp] theorem busStop_wire (k : List Work) (s : State) : (busStop k s).wire = (s.wire ++ [.stop]) := rfl
@[simp] theorem busStop_device (k : List Work) (s : State) : (busStop k s).device = s.device := rfl
@[simp] theorem busStop_script (k : List Work) (s : State) : (busStop k s).script = s.script := rfl
@[simp] theorem busStop_hostData (k : List Work) (s : State) : (busStop k s).hostData = s.hostData := rfl

@[simp] theorem loadTx_cfg (bytes : List Byte) (s : State) : (loadTx bytes s).cfg = s.cfg := rfl
@[simp] theorem loadTx_fb (bytes : List Byte) (s : State) : (loadTx bytes s).fb = s.fb := rfl
@[simp] theorem loadTx_offset (bytes : List Byte) (s : State) : (loadTx bytes s).offset = s.offset := rfl
@[simp] theorem loadTx_frame (bytes : List Byte) (s : State) : (loadTx bytes s).frame = s.frame := rfl
@[simp] theorem loadTx_idx (bytes : List Byte) (s : State) : (loadTx bytes s).idx = s.idx := rfl
@[simp] theorem loadTx_color (bytes : List Byte) (s : State) : (loadTx bytes s).color = s.color := rfl
@[simp] theorem loadTx_run (bytes : List Byte) (s : State) : (loadTx bytes s).run = s.run := rfl
@[simp] theorem loadTx_rem (bytes : List Byte) (s : State) : (loadTx bytes s).rem = s.rem := rfl
@[simp] theorem loadTx_page (bytes : List Byte) (s : State) : (loadTx bytes s).page = s.page := rfl
@[simp] theorem loadTx_col (bytes : List Byte) (s : State) : (loadTx bytes s).col = s.col := rfl
@[simp] theorem loadTx_txbuf (bytes : List Byte) (s : State) : (loadTx bytes s).txbuf = (s.txbuf.load 0 bytes) := rfl
@[simp] theorem loadTx_txlen (bytes : List Byte) (s : State) : (loadTx bytes s).txlen = (BitVec.ofNat 3 bytes.length) := rfl
@[simp] theorem loadTx_txptr (bytes : List Byte) (s : State) : (loadTx bytes s).txptr = s.txptr := rfl
@[simp] theorem loadTx_initptr (bytes : List Byte) (s : State) : (loadTx bytes s).initptr = s.initptr := rfl
@[simp] theorem loadTx_argPage (bytes : List Byte) (s : State) : (loadTx bytes s).argPage = s.argPage := rfl
@[simp] theorem loadTx_seq (bytes : List Byte) (s : State) : (loadTx bytes s).seq = s.seq := rfl
@[simp] theorem loadTx_busy (bytes : List Byte) (s : State) : (loadTx bytes s).busy = s.busy := rfl
@[simp] theorem loadTx_startReq (bytes : List Byte) (s : State) : (loadTx bytes s).startReq = s.startReq := rfl
@[simp] theorem loadTx_fStart (bytes : List Byte) (s : State) : (loadTx bytes s).fStart = s.fStart := rfl
@[simp] theorem loadTx_fAddr (bytes : List Byte) (s : State) : (loadTx bytes s).fAddr = s.fAddr := rfl
@[simp] theorem loadTx_fBtc (bytes : List Byte) (s : State) : (loadTx bytes s).fBtc = s.fBtc := rfl
@[simp] theorem loadTx_inXact (bytes : List Byte) (s : State) : (loadTx bytes s).inXact = s.inXact := rfl
@[simp] theorem loadTx_await (bytes : List Byte) (s : State) : (loadTx bytes s).await = s.await := rfl
@[simp] theorem loadTx_tickPend (bytes : List Byte) (s : State) : (loadTx bytes s).tickPend = s.tickPend := rfl
@[simp] theorem loadTx_tickEn (bytes : List Byte) (s : State) : (loadTx bytes s).tickEn = s.tickEn := rfl
@[simp] theorem loadTx_playing (bytes : List Byte) (s : State) : (loadTx bytes s).playing = s.playing := rfl
@[simp] theorem loadTx_initDone (bytes : List Byte) (s : State) : (loadTx bytes s).initDone = s.initDone := rfl
@[simp] theorem loadTx_hb (bytes : List Byte) (s : State) : (loadTx bytes s).hb = s.hb := rfl
@[simp] theorem loadTx_fault (bytes : List Byte) (s : State) : (loadTx bytes s).fault = s.fault := rfl
@[simp] theorem loadTx_wire (bytes : List Byte) (s : State) : (loadTx bytes s).wire = s.wire := rfl
@[simp] theorem loadTx_device (bytes : List Byte) (s : State) : (loadTx bytes s).device = s.device := rfl
@[simp] theorem loadTx_script (bytes : List Byte) (s : State) : (loadTx bytes s).script = s.script := rfl
@[simp] theorem loadTx_hostData (bytes : List Byte) (s : State) : (loadTx bytes s).hostData = s.hostData := rfl

@[simp] theorem callTransact_cfg (k : List Work) (s : State) : (callTransact k s).cfg = s.cfg := rfl
@[simp] theorem callTransact_fb (k : List Work) (s : State) : (callTransact k s).fb = s.fb := rfl
@[simp] theorem callTransact_offset (k : List Work) (s : State) : (callTransact k s).offset = s.offset := rfl
@[simp] theorem callTransact_frame (k : List Work) (s : State) : (callTransact k s).frame = s.frame := rfl
@[simp] theorem callTransact_idx (k : List Work) (s : State) : (callTransact k s).idx = s.idx := rfl
@[simp] theorem callTransact_color (k : List Work) (s : State) : (callTransact k s).color = s.color := rfl
@[simp] theorem callTransact_run (k : List Work) (s : State) : (callTransact k s).run = s.run := rfl
@[simp] theorem callTransact_rem (k : List Work) (s : State) : (callTransact k s).rem = s.rem := rfl
@[simp] theorem callTransact_page (k : List Work) (s : State) : (callTransact k s).page = s.page := rfl
@[simp] theorem callTransact_col (k : List Work) (s : State) : (callTransact k s).col = s.col := rfl
@[simp] theorem callTransact_txbuf (k : List Work) (s : State) : (callTransact k s).txbuf = s.txbuf := rfl
@[simp] theorem callTransact_txlen (k : List Work) (s : State) : (callTransact k s).txlen = s.txlen := rfl
@[simp] theorem callTransact_txptr (k : List Work) (s : State) : (callTransact k s).txptr = s.txptr := rfl
@[simp] theorem callTransact_initptr (k : List Work) (s : State) : (callTransact k s).initptr = s.initptr := rfl
@[simp] theorem callTransact_argPage (k : List Work) (s : State) : (callTransact k s).argPage = s.argPage := rfl
@[simp] theorem callTransact_seq (k : List Work) (s : State) : (callTransact k s).seq = (.transact :: k) := rfl
@[simp] theorem callTransact_busy (k : List Work) (s : State) : (callTransact k s).busy = true := rfl
@[simp] theorem callTransact_startReq (k : List Work) (s : State) : (callTransact k s).startReq = s.startReq := rfl
@[simp] theorem callTransact_fStart (k : List Work) (s : State) : (callTransact k s).fStart = s.fStart := rfl
@[simp] theorem callTransact_fAddr (k : List Work) (s : State) : (callTransact k s).fAddr = s.fAddr := rfl
@[simp] theorem callTransact_fBtc (k : List Work) (s : State) : (callTransact k s).fBtc = s.fBtc := rfl
@[simp] theorem callTransact_inXact (k : List Work) (s : State) : (callTransact k s).inXact = s.inXact := rfl
@[simp] theorem callTransact_await (k : List Work) (s : State) : (callTransact k s).await = s.await := rfl
@[simp] theorem callTransact_tickPend (k : List Work) (s : State) : (callTransact k s).tickPend = s.tickPend := rfl
@[simp] theorem callTransact_tickEn (k : List Work) (s : State) : (callTransact k s).tickEn = s.tickEn := rfl
@[simp] theorem callTransact_playing (k : List Work) (s : State) : (callTransact k s).playing = s.playing := rfl
@[simp] theorem callTransact_initDone (k : List Work) (s : State) : (callTransact k s).initDone = s.initDone := rfl
@[simp] theorem callTransact_hb (k : List Work) (s : State) : (callTransact k s).hb = s.hb := rfl
@[simp] theorem callTransact_fault (k : List Work) (s : State) : (callTransact k s).fault = s.fault := rfl
@[simp] theorem callTransact_wire (k : List Work) (s : State) : (callTransact k s).wire = s.wire := rfl
@[simp] theorem callTransact_device (k : List Work) (s : State) : (callTransact k s).device = s.device := rfl
@[simp] theorem callTransact_script (k : List Work) (s : State) : (callTransact k s).script = s.script := rfl
@[simp] theorem callTransact_hostData (k : List Work) (s : State) : (callTransact k s).hostData = s.hostData := rfl

@[simp] theorem clearFb_cfg (s : State) : (clearFb s).cfg = s.cfg := rfl
@[simp] theorem clearFb_fb (s : State) : (clearFb s).fb = (([] : Memory)) := rfl
@[simp] theorem clearFb_offset (s : State) : (clearFb s).offset = s.offset := rfl
@[simp] theorem clearFb_frame (s : State) : (clearFb s).frame = s.frame := rfl
@[simp] theorem clearFb_idx (s : State) : (clearFb s).idx = (BitVec.ofNat 11 fbSize) := rfl
@[simp] theorem clearFb_color (s : State) : (clearFb s).color = s.color := rfl
@[simp] theorem clearFb_run (s : State) : (clearFb s).run = s.run := rfl
@[simp] theorem clearFb_rem (s : State) : (clearFb s).rem = s.rem := rfl
@[simp] theorem clearFb_page (s : State) : (clearFb s).page = s.page := rfl
@[simp] theorem clearFb_col (s : State) : (clearFb s).col = s.col := rfl
@[simp] theorem clearFb_txbuf (s : State) : (clearFb s).txbuf = s.txbuf := rfl
@[simp] theorem clearFb_txlen (s : State) : (clearFb s).txlen = s.txlen := rfl
@[simp] theorem clearFb_txptr (s : State) : (clearFb s).txptr = s.txptr := rfl
@[simp] theorem clearFb_initptr (s : State) : (clearFb s).initptr = s.initptr := rfl
@[simp] theorem clearFb_argPage (s : State) : (clearFb s).argPage = s.argPage := rfl
@[simp] theorem clearFb_seq (s : State) : (clearFb s).seq = s.seq := rfl
@[simp] theorem clearFb_busy (s : State) : (clearFb s).busy = s.busy := rfl
@[simp] theorem clearFb_startReq (s : State) : (clearFb s).startReq = s.startReq := rfl
@[simp] theorem clearFb_fStart (s : State) : (clearFb s).fStart = s.fStart := rfl
@[simp] theorem clearFb_fAddr (s : State) : (clearFb s).fAddr = s.fAddr := rfl
@[simp] theorem clearFb_fBtc (s : State) : (clearFb s).fBtc = s.fBtc := rfl
@[simp] theorem clearFb_inXact (s : State) : (clearFb s).inXact = s.inXact := rfl
@[simp] theorem clearFb_await (s : State) : (clearFb s).await = s.await := rfl
@[simp] theorem clearFb_tickPend (s : State) : (clearFb s).tickPend = s.tickPend := rfl
@[simp] theorem clearFb_tickEn (s : State) : (clearFb s).tickEn = s.tickEn := rfl
@[simp] theorem clearFb_playing (s : State) : (clearFb s).playing = s.playing := rfl
@[simp] theorem clearFb_initDone (s : State) : (clearFb s).initDone = s.initDone := rfl
@[simp] theorem clearFb_hb (s : State) : (clearFb s).hb = s.hb := rfl
@[simp] theorem clearFb_fault (s : State) : (clearFb s).fault = s.fault := rfl
@[simp] theorem clearFb_wire (s : State) : (clearFb s).wire = s.wire := rfl
@[simp] theorem clearFb_device (s : State) : (clearFb s).device = s.device := rfl
@[simp] theorem clearFb_script (s : State) : (clearFb s).script = s.script := rfl
@[simp] theorem clearFb_hostData (s : State) : (clearFb s).hostData = s.hostData := rfl

end Sys2Proof.Machine
end

