-- ==== Sys2Proof/Laws/Drive.lean ====
section
/-! SUPPORT. How `drive` goes: what a step inside an operation does when no line lands, and the bus primitives from their first step
to the end of their hold when BUS answers. Proofs about an operation compose `Reaches` and never unfold `drive`. -/

namespace Sys2Proof.Machine

@[simp] theorem countdown_of_undisturbed {s : State} (h : s.undisturbed = true) : countdown s = s := by
  unfold State.undisturbed at h
  unfold countdown
  split
  · rename_i hs; simp [hs] at h
  · rfl

/-- `drive` gets from `s` to `t` in `n` steps, whatever fuel is left, without stopping at `depth` points. -/
def Reaches (depth n : Nat) (s t : State) : Prop := ∀ m, drive (m + n) depth s = drive m depth t

theorem Reaches.refl (depth : Nat) (s : State) : Reaches depth 0 s s := fun _ => rfl

theorem Reaches.trans {depth n m : Nat} {s t u : State} (h : Reaches depth n s t) (g : Reaches depth m t u) :
    Reaches depth (m + n) s u := fun l => by rw [← Nat.add_assoc, h, g]

theorem drive_done {depth : Nat} {s : State} (h : s.seq.length ≤ depth) (m : Nat) : drive m depth s = .next s := by
  cases m with
  | zero => rfl
  | succ m => simp [drive, h]

/-- An operation that reaches its end within the fuel answers the state at its end. -/
theorem Reaches.drive_eq {depth n fuel : Nat} {s t : State} (h : Reaches depth n s t) (ht : t.seq.length ≤ depth)
    (hn : n ≤ fuel) : drive fuel depth s = .next t := by
  obtain ⟨m, rfl⟩ : ∃ m, fuel = m + n := ⟨fuel - n, by omega⟩
  rw [h, drive_done ht]

/-- Where nothing can move and no line is due, `drive` answers the state it is in. -/
theorem drive_stuck {depth : Nat} {s : State} (hu : s.undisturbed = true) (he : s.engineReady = false)
    (hb : s.busReady = false) (m : Nat) : drive m depth s = .next s := by
  cases m with
  | zero => rfl
  | succ m =>
    unfold State.undisturbed at hu
    simp only [drive]
    split
    · rfl
    · split
      · rename_i hs; simp [hs] at hu
      · simp [he, hb]

theorem Reaches.drive_stuck {depth n fuel : Nat} {s t : State} (h : Reaches depth n s t) (hu : t.undisturbed = true)
    (he : t.engineReady = false) (hb : t.busReady = false) (hn : n ≤ fuel) : drive fuel depth s = .next t := by
  obtain ⟨m, rfl⟩ : ∃ m, fuel = m + n := ⟨fuel - n, by omega⟩
  rw [h, Machine.drive_stuck hu he hb]

theorem reaches_advance {depth : Nat} {s t : State} (hd : depth < s.seq.length) (hu : s.undisturbed = true)
    (hr : (s.engineReady || s.busReady) = true) (ha : advance s = .next t) : Reaches depth 1 s t := by
  intro m
  unfold State.undisturbed at hu
  simp only [drive]
  rw [if_neg (by omega)]
  split
  · rename_i hs; simp [hs] at hu
  · rw [if_pos hr, ha]

/-- One step of the engine. -/
theorem reaches_engine {depth : Nat} {s t : State} (hd : depth < s.seq.length) (hu : s.undisturbed = true)
    (hr : s.engineReady = true) (he : engine s = .next t) : Reaches depth 1 s t :=
  reaches_advance hd hu (by simp [hr]) (by simp [advance, hr, hu, he])

/-- One step of BUS. -/
theorem reaches_bus {depth : Nat} {s : State} (hd : depth < s.seq.length) (hu : s.undisturbed = true)
    (hr : s.engineReady = false) (hb : s.busReady = true) : Reaches depth 1 s (busStep s) :=
  reaches_advance hd hu (by simp [hb]) (by simp [advance, hr, hu])

/-- What the bus primitives need of the state: BUS answers, no line lands, no verdict stands. -/
structure State.Answered (s : State) : Prop where
  device : s.device = .present
  undisturbed : s.undisturbed = true
  fault : s.fault = none

/-- bus_start (R131) on a free bus: S goes out. -/
theorem reaches_busStart {depth : Nat} {k : List Work} {s : State} (h : s.Answered) (hd : depth ≤ k.length)
    (hx : s.inXact = false) (hf : s.fStart = false) :
    Reaches depth 2 (busStart k s)
      { s with wire := s.wire ++ [.start], startReq := false, inXact := true, fStart := true, seq := k,
               busy := !k.isEmpty } := by
  obtain ⟨hdev, hu, hfa⟩ := h
  cases s
  simp only at hdev hfa hx hf
  subst hdev hfa hx hf
  refine Reaches.trans (n := 1) (m := 1) (reaches_bus ?_ hu rfl rfl) (reaches_engine ?_ hu rfl rfl)
  · simp; omega
  · simp [busStep, State.grantEnabled, busStart]; omega

/-- bus_addr (R132): the address byte goes out and is acknowledged. -/
theorem reaches_busAddr {depth : Nat} {k : List Work} {s : State} (h : s.Answered) (hd : depth ≤ k.length)
    (hq : s.startReq = false) (hf : s.fAddr = false) :
    Reaches depth 2 (busAddr k s)
      { s with wire := s.wire ++ [.addr (addressByte s.cfg)], fStart := false, fAddr := true, await := .none, seq := k,
               busy := !k.isEmpty } := by
  obtain ⟨hdev, hu, hfa⟩ := h
  cases s
  simp only at hdev hfa hq hf
  subst hdev hfa hq hf
  refine Reaches.trans (n := 1) (m := 1) (reaches_bus ?_ hu rfl rfl) (reaches_engine ?_ hu rfl rfl)
  · simp; omega
  · simp [busStep, State.grantEnabled, busAddr]; omega

/-- bus_byte (R133): the byte goes out and its transfer completes. -/
theorem reaches_busByte {depth : Nat} (b : Byte) {k : List Work} {s : State} (h : s.Answered) (hd : depth ≤ k.length)
    (hq : s.startReq = false) :
    Reaches depth 2 (busByte b k s)
      { s with wire := s.wire ++ [.data b], fAddr := false, fBtc := true, await := .none, seq := k,
               busy := !k.isEmpty } := by
  obtain ⟨hdev, hu, hfa⟩ := h
  cases s
  simp only at hdev hfa hq
  subst hdev hfa hq
  refine Reaches.trans (n := 1) (m := 1) (reaches_bus ?_ hu rfl rfl) (reaches_engine ?_ hu rfl rfl)
  · simp; omega
  · simp [busStep, State.grantEnabled, busByte]; omega

end Sys2Proof.Machine
end

