-- ==== Sys2Proof/Laws/Memory.lean ====
section
/-! SUPPORT. The framebuffer: a read after a write, and the canonical form kept by every operation (20_memory.md R71). -/

namespace Sys2Proof.Machine

@[simp] theorem Memory.read_nil (i : Nat) : Memory.read [] i = 0x00#8 := rfl

theorem Memory.wfFrom_mono {m : Memory} {lo hi : Nat} (h : m.wfFrom hi = true) (le : lo ≤ hi) : m.wfFrom lo = true := by
  cases m with
  | nil => rfl
  | cons e rest =>
    simp only [Memory.wfFrom, Bool.and_eq_true, decide_eq_true_eq] at h ⊢
    exact ⟨⟨⟨by omega, h.1.1.2⟩, h.1.2⟩, h.2⟩

/-- Nothing is listed below where the canonical form starts. -/
theorem Memory.read_below {m : Memory} {lo i : Nat} (h : m.wfFrom lo = true) (lt : i < lo) : m.read i = fbUnlisted := by
  cases m with
  | nil => rfl
  | cons e rest =>
    simp only [Memory.wfFrom, Bool.and_eq_true, decide_eq_true_eq] at h
    have hle := h.1.1.1
    simp only [Memory.read]
    rw [if_neg (by omega), if_pos (by omega)]

/-- A read after a write: the byte written at its index, every other byte as before. -/
theorem Memory.read_write {m : Memory} {lo : Nat} (h : m.wfFrom lo = true) (i : Nat) (v : Byte) (j : Nat) :
    (m.write i v).read j = if j = i then v else m.read j := by
  induction m generalizing lo with
  | nil =>
    simp only [Memory.write]
    by_cases hj : j = i
    · subst hj
      split
      · rename_i hv; rw [if_pos rfl, hv]; rfl
      · simp [Memory.read]
    · split
      · rfl
      · simp [Memory.read, Ne.symm hj]
  | cons e rest ih =>
    obtain ⟨a, b⟩ := e
    simp only [Memory.wfFrom, Bool.and_eq_true, decide_eq_true_eq] at h
    have below : ∀ k, k < a + 1 → Memory.read rest k = fbUnlisted := fun k hk => Memory.read_below h.2 hk
    simp only [Memory.write]
    split
    · rename_i hia
      split
      · rename_i hv
        by_cases hj : j = i
        · subst hj; simp only [Memory.read, if_true]; rw [if_neg (by omega), if_pos (by omega)]; exact hv.symm
        · simp [hj]
      · by_cases hj : j = i
        · subst hj; simp [Memory.read]
        · simp only [Memory.read, if_neg hj, if_neg (Ne.symm hj)]
          split
          · rw [if_neg (by omega), if_pos (by omega)]
          · rfl
    · split
      · rename_i hia
        subst hia
        split
        · rename_i hv
          by_cases hj : j = i
          · subst hj; simp only [if_true]; rw [below _ (by omega)]; exact hv.symm
          · simp only [Memory.read, if_neg hj, if_neg (Ne.symm hj)]
            split
            · exact below _ (by omega)
            · rfl
        · by_cases hj : j = i
          · subst hj; simp [Memory.read]
          · simp [Memory.read, hj, Ne.symm hj]
      · simp only [Memory.read]
        by_cases haj : a = j
        · subst haj; rw [if_pos rfl, if_pos rfl, if_neg (by omega)]
        · rw [if_neg haj, if_neg haj]
          split
          · rw [if_neg (by omega)]
          · exact ih h.2

/-- A write inside FB keeps the canonical form. -/
theorem Memory.wfFrom_write {m : Memory} {lo : Nat} (h : m.wfFrom lo = true) {i : Nat} (v : Byte) (hlo : lo ≤ i)
    (hi : i < fbSize) : (m.write i v).wfFrom lo = true := by
  induction m generalizing lo with
  | nil =>
    simp only [Memory.write]
    split
    · rfl
    · rename_i hv; simp [Memory.wfFrom, hlo, hi, hv]
  | cons e rest ih =>
    obtain ⟨a, b⟩ := e
    have h0 := h
    simp only [Memory.wfFrom, Bool.and_eq_true, decide_eq_true_eq] at h
    simp only [Memory.write]
    split
    · split
      · exact h0
      · rename_i hia hv
        simp only [Memory.wfFrom, Bool.and_eq_true, decide_eq_true_eq]
        exact ⟨⟨⟨hlo, hi⟩, by simpa using hv⟩, ⟨⟨by omega, h.1.1.2⟩, h.1.2⟩, h.2⟩
    · split
      · rename_i hia
        split
        · exact Memory.wfFrom_mono h.2 (by omega)
        · rename_i hv
          subst hia
          simp only [Memory.wfFrom, Bool.and_eq_true, decide_eq_true_eq]
          exact ⟨⟨⟨hlo, hi⟩, by simpa using hv⟩, h.2⟩
      · simp only [Memory.wfFrom, Bool.and_eq_true, decide_eq_true_eq]
        exact ⟨⟨h.1.1, h.1.2⟩, ih h.2 (by omega)⟩

theorem Memory.wf_nil : Memory.wf [] = true := rfl

/-- The framebuffer at reset, and after CLEAR, is in the canonical form. -/
theorem State.reset_fb_wf : State.reset.fb.wf = true := rfl

theorem clearFb_fb_wf (s : State) : (clearFb s).fb.wf = true := rfl

theorem Memory.wf_write {m : Memory} (h : m.wf = true) {i : Nat} (v : Byte) (hi : i < fbSize) : (m.write i v).wf = true :=
  Memory.wfFrom_write h v (Nat.zero_le i) hi

/-- A fill inside FB keeps the canonical form. -/
theorem Memory.wf_fill {m : Memory} (h : m.wf = true) (v : Byte) (n i : Nat) (hi : i + n ≤ fbSize) :
    (m.fill i v n).wf = true := by
  induction n generalizing m i with
  | zero => exact h
  | succ n ih => exact ih (Memory.wf_write h v (by omega)) (i + 1) (by omega)

/-- A read after a fill: the byte written where the fill wrote, every other byte as before. -/
theorem Memory.read_fill {m : Memory} (h : m.wf = true) (v : Byte) (n i : Nat) (hi : i + n ≤ fbSize) (j : Nat) :
    (m.fill i v n).read j = if i ≤ j ∧ j < i + n then v else m.read j := by
  induction n generalizing m i with
  | zero => rw [Memory.fill, if_neg (by omega)]
  | succ n ih =>
    rw [Memory.fill, ih (Memory.wf_write h v (by omega)) (i + 1) (by omega), Memory.read_write h]
    by_cases hj : j = i
    · subst hj; simp
    · by_cases hin : i + 1 ≤ j ∧ j < i + 1 + n
      · rw [if_pos hin, if_pos (by omega)]
      · rw [if_neg hin, if_neg hj, if_neg (by omega)]

end Sys2Proof.Machine
end

