-- ==== Sys2Proof/Laws/Decoder.lean ====
section
/-! SUPPORT. DECODE from its first step to its end or its fault verdict (42_frame_decoder.md R191 to R197), inside whatever the
engine is doing. -/

namespace Sys2Proof.Machine

/-- The state of DECODE once the runs `runs` are drawn into the framebuffer `m`. -/
def drawn (m : Memory) (runs : List Byte) (s : State) : State :=
  { s with fb := m, offset := s.offset + BitVec.ofNat 32 runs.length,
           idx := BitVec.ofNat 11 (s.idx.toNat + runsTotal s.cfg.pixelScale runs),
           color := s.color ^^ (runs.length % 2 == 1), run := runs.getLast?.getD s.run,
           rem := if runs = [] then s.rem else 0 }

theorem runsTotal_cons (scale : Nat) (n : Byte) (runs : List Byte) :
    runsTotal scale (n :: runs) = n.toNat * scale + runsTotal scale runs := by simp [runsTotal]

/-- A run that fits (R191). -/
theorem decodeRun_fits {n : Byte} {s : State} (h : s.idx.toNat + n.toNat * s.cfg.pixelScale ≤ fbSize) :
    decodeRun n s = drawn (s.fb.fill s.idx.toNat (colorByte s.color) (n.toNat * s.cfg.pixelScale)) [n] s := by
  unfold decodeRun runBytes
  rw [if_neg (by omega)]
  simp [drawn, runsTotal]

/-- A run that does not fit (R196): FLT_OVERRUN, and nothing of it is written. -/
theorem decodeRun_overrun {n : Byte} {s : State} (h : fbSize < s.idx.toNat + n.toNat * s.cfg.pixelScale) :
    decodeRun n s = raiseFault .overrun
      { s with run := n, offset := s.offset + 1, rem := n.toNat * s.cfg.pixelScale } := by
  unfold decodeRun runBytes
  exact if_pos h

theorem drawn_cons (m : Memory) (n : Byte) (runs : List Byte) (s : State)
    (h : s.idx.toNat + n.toNat * s.cfg.pixelScale ≤ fbSize) :
    drawn m runs (drawn (s.fb.fill s.idx.toNat (colorByte s.color) (n.toNat * s.cfg.pixelScale)) [n] s) =
      drawn m (n :: runs) s := by
  have h' : s.idx.toNat + n.toNat * s.cfg.pixelScale ≤ 1024 := h
  have hi : (BitVec.ofNat 11 (s.idx.toNat + n.toNat * s.cfg.pixelScale)).toNat =
      s.idx.toNat + n.toNat * s.cfg.pixelScale := by simp; omega
  have hc : ((s.color ^^ true) ^^ (runs.length % 2 == 1)) = (s.color ^^ ((runs.length + 1) % 2 == 1)) := by
    rcases Nat.mod_two_eq_zero_or_one runs.length with e | e
    · have e2 : (runs.length + 1) % 2 = 1 := by omega
      simp [e, e2]
    · have e2 : (runs.length + 1) % 2 = 0 := by omega
      simp [e, e2]
  have ho : s.offset + 1#32 + BitVec.ofNat 32 runs.length = s.offset + BitVec.ofNat 32 (runs.length + 1) := by
    apply BitVec.eq_of_toNat_eq; simp; omega
  have hr : (runs.getLast?.getD n) = (n :: runs).getLast?.getD s.run := by simp [List.getLast?_cons]
  have e1 : runsTotal s.cfg.pixelScale [n] = n.toNat * s.cfg.pixelScale := by simp [runsTotal]
  simp only [drawn, e1, hi, runsTotal_cons, List.length_cons, List.length_nil, Nat.add_assoc]
  simp [hr]
  exact ⟨ho, by simpa using hc⟩

theorem drawn_nil (s : State) (h : s.idx.toNat ≤ fbSize) : drawn s.fb [] s = s := by
  have hi : BitVec.ofNat 11 s.idx.toNat = s.idx := by simp
  cases s
  simp_all [drawn, runsTotal]

/-- DECODE's loop over runs that stand in the stream and fit: they are drawn from IDX up, the first in COLOR, and every byte
below IDX and beyond the runs stays. -/
theorem reaches_runs {depth : Nat} {k : List Work} (hd : depth ≤ k.length) (runs : List Byte) :
    ∀ (s : State), s.fault = none → s.undisturbed = true → s.fb.wf = true →
      s.offset.toNat + runs.length < 2 ^ 32 → (s.cfg.stream.drop s.offset.toNat).take runs.length = runs →
      (∀ j, j < runs.length → s.idx.toNat + runsTotal s.cfg.pixelScale (runs.take j) < fbSize) →
      s.idx.toNat + runsTotal s.cfg.pixelScale runs ≤ fbSize →
      ∃ m : Memory, m.wf = true ∧
        (∀ j, j < fbSize → m.read j = if j < s.idx.toNat then s.fb.read j
          else (runPixels s.cfg.pixelScale s.color runs).getD (j - s.idx.toNat) (s.fb.read j)) ∧
        Reaches depth runs.length (goOn (.decodeLoop :: k) s) (goOn (.decodeLoop :: k) (drawn m runs s)) := by
  induction runs with
  | nil =>
    intro s hf hu hw _ _ _ hi
    refine ⟨s.fb, hw, fun j _ => by simp [runPixels], ?_⟩
    rw [drawn_nil s (by simpa [runsTotal] using hi)]
    exact Reaches.refl _ _
  | cons n runs ih =>
    intro s hf hu hw ho hs hpre htot
    rw [runsTotal_cons] at htot
    have htot' : s.idx.toNat + (n.toNat * s.cfg.pixelScale + runsTotal s.cfg.pixelScale runs) ≤ 1024 := htot
    have hlt : s.offset.toNat < s.cfg.stream.length := by
      apply Decidable.byContradiction; intro hc
      rw [List.drop_eq_nil_iff.mpr (by omega)] at hs; simp at hs
    rw [List.drop_eq_getElem_cons hlt, List.length_cons, List.take_succ_cons] at hs
    obtain ⟨hget, hrest⟩ := List.cons.inj hs
    have hsome : s.cfg.stream[s.offset.toNat]? = some n := by rw [List.getElem?_eq_getElem hlt, hget]
    have hfit : s.idx.toNat + n.toNat * s.cfg.pixelScale ≤ fbSize := by omega
    have hidx : s.idx.toNat < fbSize := by simpa [runsTotal] using hpre 0 (by simp)
    generalize hm1 : s.fb.fill s.idx.toNat (colorByte s.color) (n.toNat * s.cfg.pixelScale) = m1
    have a : Reaches depth 1 (goOn (.decodeLoop :: k) s) (goOn (.decodeLoop :: k) (drawn m1 [n] s)) := by
      refine reaches_engine (by simp; omega) hu (by simp [State.engineReady, hf]) ?_
      have hrun : decodeRun n (goOn (.decodeLoop :: k) s) = goOn (.decodeLoop :: k) (drawn m1 [n] s) := by
        rw [decodeRun_fits (by simpa using hfit), ← hm1]
        rfl
      have heng : engine (goOn (.decodeLoop :: k) s) = .next (decodeRun n (goOn (.decodeLoop :: k) s)) := by
        simp only [engine, goOn_seq, engineAt, goOn_idx, goOn_cfg, goOn_offset, hsome]
        exact if_pos hidx
      rw [heng, hrun]
    have e1 : runsTotal s.cfg.pixelScale [n] = n.toNat * s.cfg.pixelScale := by simp [runsTotal]
    have hi1 : (drawn m1 [n] s).idx.toNat = s.idx.toNat + n.toNat * s.cfg.pixelScale := by
      simp only [drawn, e1]; simp; omega
    have ho1 : (drawn m1 [n] s).offset.toNat = s.offset.toNat + 1 := by
      simp only [List.length_cons] at ho
      simp [drawn]; omega
    obtain ⟨m, hmw, hmr, hreach⟩ := ih (drawn m1 [n] s) hf hu (by
        rw [← hm1]; exact Memory.wf_fill hw _ _ _ hfit) (by rw [ho1]; simp only [List.length_cons] at ho; omega)
      (by rw [ho1]; exact hrest)
      (fun j hj => by
        have := hpre (j + 1) (by simpa using hj)
        rw [List.take_succ_cons, runsTotal_cons] at this
        rw [hi1]
        show _ + runsTotal s.cfg.pixelScale _ < _
        omega)
      (by rw [hi1]; show _ + runsTotal s.cfg.pixelScale _ ≤ _; omega)
    refine ⟨m, hmw, ?_, ?_⟩
    · intro j hj
      rw [hmr j hj, hi1]
      have hcol : (drawn m1 [n] s).color = !s.color := by simp [drawn]
      have hfb : (drawn m1 [n] s).fb = m1 := rfl
      have hcfg : (drawn m1 [n] s).cfg = s.cfg := rfl
      rw [hcol, hfb, hcfg, ← hm1, Memory.read_fill hw _ _ _ hfit]
      simp only [runPixels]
      by_cases h1 : j < s.idx.toNat
      · rw [if_pos h1, if_pos (by omega), if_neg (by omega)]
      · rw [if_neg h1]
        by_cases h2 : j < s.idx.toNat + n.toNat * s.cfg.pixelScale
        · rw [if_pos h2, if_pos (by omega)]
          rw [List.getD_eq_getElem?_getD, List.getElem?_append_left (by simp; omega),
            List.getElem?_replicate_of_lt (by omega), Option.getD_some]
        · rw [if_neg h2, if_neg (by omega)]
          rw [List.getD_eq_getElem?_getD, List.getD_eq_getElem?_getD, List.getElem?_append_right (by simp; omega)]
          simp [Nat.sub_sub]
    · rw [← drawn_cons m n runs s hfit, hm1]
      exact a.trans hreach

/-- DECODE of one frame of the stream (R191, R195): the framebuffer shows its runs. -/
theorem reaches_decode {depth : Nat} {k : List Work} {s : State} (hd : depth ≤ k.length) (hf : s.fault = none)
    (hu : s.undisturbed = true) (hl : s.cfg.streamLen < 2 ^ 32) (runs : List Byte)
    (hr : frameAt s.cfg s.offset.toNat runs) :
    ∃ m : Memory, m.wf = true ∧ shows m s.cfg.pixelScale runs ∧
      Reaches depth (runs.length + 4) (goOn (.decode :: k) s)
        (goOn k { s with fb := m, offset := s.offset + BitVec.ofNat 32 runs.length, idx := BitVec.ofNat 11 fbSize,
                         color := runs.length % 2 == 1, run := runs.getLast?.getD s.run, rem := 0 }) := by
  obtain ⟨⟨hs, hpre⟩, htot⟩ := hr
  have hne : runs ≠ [] := by rintro rfl; simp [runsTotal, fbSize] at htot
  have hlen : runs.length ≤ s.cfg.stream.length - s.offset.toNat := by
    have := congrArg List.length hs
    rw [List.length_take, List.length_drop] at this; omega
  have hpos : 0 < runs.length := List.length_pos_iff.mpr hne
  have a : Reaches depth 1 (goOn (.decode :: k) s) (goOn (.clear :: .decodeFirst :: k) s) :=
    reaches_engine (by simp; omega) hu (by simp [State.engineReady, hf]) rfl
  have b : Reaches depth 1 (goOn (.clear :: .decodeFirst :: k) s) (goOn (.decodeFirst :: k) (clearFb s)) :=
    reaches_engine (by simp; omega) hu (by simp [State.engineReady, hf]) rfl
  have c : Reaches depth 1 (goOn (.decodeFirst :: k) (clearFb s))
      (goOn (.decodeLoop :: k) { s with fb := [], idx := 0, color := false }) :=
    reaches_engine (by simp; omega) hu (by simp [State.engineReady, hf]) rfl
  obtain ⟨m, hmw, hmr, d⟩ := reaches_runs (depth := depth) (k := k) hd runs
    { s with fb := [], idx := 0, color := false } hf hu rfl
    (by simp only [Config.streamLen] at hl; show s.offset.toNat + _ < _; omega) hs
    (fun j hj => by simpa using hpre j hj) (by simpa using Nat.le_of_eq htot)
  refine ⟨m, hmw, ?_, ?_⟩
  · intro i hi
    rw [hmr i hi]
    simp [byteOff]
  · have e : drawn m runs { s with fb := [], idx := 0, color := false } =
        { s with fb := m, offset := s.offset + BitVec.ofNat 32 runs.length, idx := BitVec.ofNat 11 fbSize,
                 color := runs.length % 2 == 1, run := runs.getLast?.getD s.run, rem := 0 } := by
      simp [drawn, hne, htot]
    rw [e] at d
    have f : Reaches depth 1
        (goOn (.decodeLoop :: k)
          { s with fb := m, offset := s.offset + BitVec.ofNat 32 runs.length, idx := BitVec.ofNat 11 fbSize,
                   color := runs.length % 2 == 1, run := runs.getLast?.getD s.run, rem := 0 })
        (goOn k
          { s with fb := m, offset := s.offset + BitVec.ofNat 32 runs.length, idx := BitVec.ofNat 11 fbSize,
                   color := runs.length % 2 == 1, run := runs.getLast?.getD s.run, rem := 0 }) :=
      reaches_engine (by simp; omega) hu (by simp [State.engineReady, hf]) rfl
    have all := (((a.trans b).trans c).trans d).trans f
    have e2 : runs.length + 4 = 1 + (runs.length + (1 + (1 + 1))) := by omega
    rw [e2]
    exact all

end Sys2Proof.Machine
end

