-- ==== Sys2Proof/Laws/Transport.lean ====
section
/-! SUPPORT. TRANSACT and STREAM_PAGE from their first step to the end of their transaction (40_bus_transport.md R140, R142), inside
whatever the engine is doing. -/

namespace Sys2Proof.Machine

/-- The state inside a transaction that is under way, with the three conditions `fs`, `fa`, `fb` and `q` still to do. -/
def inside (s : State) (w : List WireEvent) (fs fa fb : Bool) (q : List Work) : State :=
  { s with wire := w, startReq := false, fStart := fs, fAddr := fa, fBtc := fb, inXact := true, await := .none,
           seq := q, busy := true }

theorem inside_answered {s : State} (h : s.Answered) (w : List WireEvent) (fs fa fb : Bool) (q : List Work) :
    (inside s w fs fa fb q).Answered := ⟨h.device, h.undisturbed, h.fault⟩

theorem State.busQuiet_iff (s : State) : s.busQuiet = true ↔
    s.startReq = false ∧ s.fStart = false ∧ s.fAddr = false ∧ s.fBtc = false ∧ s.inXact = false ∧ s.await = .none := by
  simp [State.busQuiet, and_assoc]

/-- From the start request to the acknowledged address: both transactions begin so. -/
theorem reaches_opening {depth : Nat} {w : Work} {k : List Work} {s : State} (h : s.Answered) (hq : s.busQuiet = true)
    (hd : depth ≤ k.length) :
    Reaches depth 6 (goOn (.start :: .addr :: w :: k) s)
      (inside s (s.wire ++ [.start, .addr (addressByte s.cfg)]) false true false (w :: k)) := by
  rw [State.busQuiet_iff] at hq
  obtain ⟨h1, h2, h3, h4, h5, h6⟩ := hq
  have a : Reaches depth 1 (goOn (.start :: .addr :: w :: k) s)
      (busStart (.addr :: w :: k) (goOn (.start :: .addr :: w :: k) s)) :=
    reaches_engine (by simp; omega) h.undisturbed (by simp [State.engineReady, h.fault]) rfl
  have b := reaches_busStart (depth := depth) (k := .addr :: w :: k) (s := goOn (.start :: .addr :: w :: k) s)
    ⟨h.device, h.undisturbed, h.fault⟩ (by simp; omega) h5 h2
  have eb : ({ goOn (.start :: .addr :: w :: k) s with
      wire := s.wire ++ [.start], startReq := false, inXact := true, fStart := true, seq := .addr :: w :: k,
      busy := true } : State) = inside s (s.wire ++ [.start]) true false false (.addr :: w :: k) := by
    cases s; simp_all [inside, goOn]
  have c : Reaches depth 1 (inside s (s.wire ++ [.start]) true false false (.addr :: w :: k))
      (busAddr (w :: k) (inside s (s.wire ++ [.start]) true false false (.addr :: w :: k))) :=
    reaches_engine (by simp [inside]; omega) h.undisturbed (by simp [State.engineReady, inside, h.fault]) rfl
  have d := reaches_busAddr (depth := depth) (k := w :: k)
    (inside_answered h (s.wire ++ [.start]) true false false (.addr :: w :: k)) (by simp; omega) rfl rfl
  have all := ((a.trans (eb ▸ b)).trans c).trans d
  simpa [inside] using all

theorem TxBuf.bytes_drop (t : TxBuf) {n p : Nat} (hp : p < n) (hn : n ≤ 4) :
    ∃ b, t.get? p = some b ∧ (t.bytes n).drop p = b :: (t.bytes n).drop (p + 1) := by
  obtain rfl | rfl | rfl | rfl : n = 1 ∨ n = 2 ∨ n = 3 ∨ n = 4 := by omega
  all_goals obtain rfl | rfl | rfl | rfl : p = 0 ∨ p = 1 ∨ p = 2 ∨ p = 3 := by omega
  all_goals first | omega | exact ⟨_, rfl, rfl⟩

theorem TxBuf.bytes_length (t : TxBuf) {n : Nat} (hn : n ≤ 4) : (t.bytes n).length = n := by
  simp [TxBuf.bytes]; omega

/-- TRANSACT's loop from TXPTR to TXLEN. -/
theorem reaches_txLoop {depth : Nat} {w : Work} {k : List Work} {s : State} (h : s.Answered) (hd : depth ≤ k.length)
    (hn : s.txlen.toNat ≤ 4) (r : Nat) : ∀ (p : BitVec 3) (tr : List WireEvent) (fa fb : Bool),
      p.toNat + r = s.txlen.toNat →
      Reaches depth (1 + 4 * r) (inside { s with txptr := p } tr false fa fb (.txLoop :: w :: k))
        (inside { s with txptr := s.txlen } (tr ++ ((s.txbuf.bytes s.txlen.toNat).drop p.toNat).map .data) false
          (fa && r == 0) (fb || r != 0) (w :: k)) := by
  obtain ⟨hdev, hu, hfa⟩ := h
  induction r with
  | zero =>
    intro p tr fa fb hp
    have hpe : p = s.txlen := BitVec.eq_of_toNat_eq (by omega)
    subst hpe
    have hdrop : (s.txbuf.bytes s.txlen.toNat).drop s.txlen.toNat = [] := by
      exact List.drop_eq_nil_iff.mpr (Nat.le_of_eq (TxBuf.bytes_length _ hn))
    rw [hdrop]
    refine reaches_engine (by simp [inside]; omega) hu (by simp [State.engineReady, inside, hfa]) ?_
    simp [engine, engineAt, inside, goOn]
  | succ r ih =>
    intro p tr fa fb hp
    obtain ⟨b, hb, hdrop⟩ := s.txbuf.bytes_drop (n := s.txlen.toNat) (p := p.toNat) (by omega) hn
    have hp1 : (p + 1).toNat = p.toNat + 1 := by
      have := s.txlen.isLt; rw [BitVec.toNat_add]; simp; omega
    have step1 : Reaches depth 1 (inside { s with txptr := p } tr false fa fb (.txLoop :: w :: k))
        (busByte b (.txNext :: w :: k) (inside { s with txptr := p } tr false fa fb (.txLoop :: w :: k))) := by
      refine reaches_engine (by simp [inside]; omega) hu (by simp [State.engineReady, inside, hfa]) ?_
      have hlt : p.toNat < s.txlen.toNat := by omega
      simp [engine, engineAt, inside, hlt, hb]
    have step2 := reaches_busByte (depth := depth) b (k := .txNext :: w :: k)
      (s := inside { s with txptr := p } tr false fa fb (.txLoop :: w :: k)) ⟨hdev, hu, hfa⟩ (by simp; omega) rfl
    have step3 : Reaches depth 1 (inside { s with txptr := p } (tr ++ [.data b]) false false true (.txNext :: w :: k))
        (inside { s with txptr := p + 1 } (tr ++ [.data b]) false false true (.txLoop :: w :: k)) :=
      reaches_engine (by simp [inside]; omega) hu (by simp [State.engineReady, inside, hfa]) rfl
    have rest := ih (p + 1) (tr ++ [.data b]) false true (by omega)
    rw [hp1] at rest
    have all := ((step1.trans step2).trans step3).trans rest
    rw [hdrop]
    have e : 1 + 4 * (r + 1) = 1 + 4 * r + (1 + (2 + 1)) := by omega
    rw [e]
    simpa using all

/-- bus_stop at the end of a transaction. -/
theorem reaches_stop {depth : Nat} {k : List Work} {s : State} (h : s.Answered) (hd : depth ≤ k.length)
    (hq : s.busQuiet = true) (tr : List WireEvent) :
    Reaches depth 1 (inside s tr false false true (.stop :: k)) (goOn k { s with wire := tr ++ [.stop] }) := by
  rw [State.busQuiet_iff] at hq
  refine reaches_engine (by simp [inside]; omega) h.undisturbed (by simp [State.engineReady, inside, h.fault]) ?_
  cases s
  simp_all [engine, engineAt, inside, busStop, goOn]

/-- TRANSACT (R140) of 1 to 4 bytes: one transaction goes out, TXPTR ends at TXLEN, and nothing else changes. -/
theorem reaches_transact {depth : Nat} {k : List Work} {s : State} (h : s.Answered) (hq : s.busQuiet = true)
    (hd : depth ≤ k.length) (h1 : 1 ≤ s.txlen.toNat) (h4 : s.txlen.toNat ≤ 4) :
    Reaches depth (10 + 4 * s.txlen.toNat) (callTransact k s)
      (goOn k { s with txptr := s.txlen, wire := s.wire ++ transactionTrace s.cfg (s.txbuf.bytes s.txlen.toNat) }) := by
  have a : Reaches depth 1 (callTransact k s) (goOn (.start :: .addr :: .txFirst :: .stop :: k) s) := by
    refine reaches_engine (by simp; omega) h.undisturbed (by simp [State.engineReady, h.fault]) ?_
    have hn : ¬ (s.txlen.toNat < 1 ∨ txbufMax < s.txlen.toNat) := by show ¬ (_ ∨ 4 < _); omega
    exact (if_neg hn).trans rfl
  have b := reaches_opening (depth := depth) (w := .txFirst) (k := .stop :: k) h hq (by simp; omega)
  have c : Reaches depth 1
      (inside s (s.wire ++ [.start, .addr (addressByte s.cfg)]) false true false (.txFirst :: .stop :: k))
      (inside { s with txptr := 0 } (s.wire ++ [.start, .addr (addressByte s.cfg)]) false true false
        (.txLoop :: .stop :: k)) :=
    reaches_engine (by simp [inside]; omega) h.undisturbed (by simp [State.engineReady, inside, h.fault]) rfl
  have d := reaches_txLoop (depth := depth) (w := .stop) (k := k) h hd h4 s.txlen.toNat 0
    (s.wire ++ [.start, .addr (addressByte s.cfg)]) true false (by simp)
  have e1 : (true && s.txlen.toNat == 0) = false := by simp; omega
  have e2 : (false || s.txlen.toNat != 0) = true := by simp; omega
  rw [e1, e2] at d
  have f := reaches_stop (depth := depth) (k := k) (s := { s with txptr := s.txlen })
    ⟨h.device, h.undisturbed, h.fault⟩ hd hq
    (s.wire ++ [.start, .addr (addressByte s.cfg)] ++ (s.txbuf.bytes s.txlen.toNat).map .data)
  have all := (((a.trans b).trans c).trans d).trans f
  have e : 10 + 4 * s.txlen.toNat = 1 + (1 + 4 * s.txlen.toNat + (1 + (6 + 1))) := by omega
  rw [e]
  simpa [transactionTrace] using all

theorem pageBytes_drop (m : Memory) (p : Nat) {c : Nat} (hc : c < displayW) :
    (pageBytes m p).drop c = m.read (p * displayW + c) :: (pageBytes m p).drop (c + 1) := by
  rw [List.drop_eq_getElem_cons (by simpa [pageBytes] using hc)]
  simp [pageBytes]

/-- STREAM_PAGE's loop at a column below DISPLAY_W of a page below PAGE_COUNT reads FB inside its bounds. -/
theorem engineAt_pageLoop {k : List Work} {s : State} (hc : s.col.toNat < displayW) (hp : s.page.toNat < pageCount) :
    engineAt .pageLoop k s =
      .next (busByte (s.fb.read (s.page.toNat * displayW + s.col.toNat)) (.pageNext :: k) s) := by
  have hfb : readFb s (fbIndex s.page s.col) = some (s.fb.read (s.page.toNat * displayW + s.col.toNat)) := by
    unfold readFb fbIndex
    refine if_pos ?_
    simp only [displayW, pageCount, fbSize] at *
    omega
  simp only [engineAt]
  rw [if_pos hc, hfb]

/-- STREAM_PAGE's loop from COL to DISPLAY_W. -/
theorem reaches_pageLoop {depth : Nat} {w : Work} {k : List Work} {s : State} (h : s.Answered) (hd : depth ≤ k.length)
    (hp : s.page.toNat < pageCount) (r : Nat) : ∀ (c : BitVec 8) (tr : List WireEvent), c.toNat + r = displayW →
      Reaches depth (1 + 4 * r) (inside { s with col := c } tr false false true (.pageLoop :: w :: k))
        (inside { s with col := BitVec.ofNat 8 displayW }
          (tr ++ ((pageBytes s.fb s.page.toNat).drop c.toNat).map .data) false false true (w :: k)) := by
  obtain ⟨hdev, hu, hfa⟩ := h
  induction r with
  | zero =>
    intro c tr hc
    have hce : c = BitVec.ofNat 8 displayW := BitVec.eq_of_toNat_eq (by simpa [displayW] using hc)
    subst hce
    have hdrop : (pageBytes s.fb s.page.toNat).drop (BitVec.ofNat 8 displayW).toNat = [] := by
      rw [List.drop_eq_nil_iff]; simp [pageBytes, displayW]
    rw [hdrop]
    refine reaches_engine (by simp [inside]; omega) hu (by simp [State.engineReady, inside, hfa]) ?_
    simp [engine, engineAt, inside, goOn, displayW]
  | succ r ih =>
    intro c tr hc
    have hlt : c.toNat < displayW := by omega
    have hc1 : (c + 1).toNat = c.toNat + 1 := by
      have hlt' : c.toNat < 128 := hlt
      rw [BitVec.toNat_add]; simp; omega
    have step1 : Reaches depth 1 (inside { s with col := c } tr false false true (.pageLoop :: w :: k))
        (busByte (s.fb.read (s.page.toNat * displayW + c.toNat)) (.pageNext :: w :: k)
          (inside { s with col := c } tr false false true (.pageLoop :: w :: k))) := by
      refine reaches_engine (by simp [inside]; omega) hu (by simp [State.engineReady, inside, hfa]) ?_
      exact engineAt_pageLoop (s := inside { s with col := c } tr false false true (.pageLoop :: w :: k)) hlt hp
    have step2 := reaches_busByte (depth := depth) (s.fb.read (s.page.toNat * displayW + c.toNat))
      (k := .pageNext :: w :: k) (s := inside { s with col := c } tr false false true (.pageLoop :: w :: k))
      ⟨hdev, hu, hfa⟩ (by simp; omega) rfl
    have step3 : Reaches depth 1
        (inside { s with col := c } (tr ++ [.data (s.fb.read (s.page.toNat * displayW + c.toNat))]) false false true
          (.pageNext :: w :: k))
        (inside { s with col := c + 1 } (tr ++ [.data (s.fb.read (s.page.toNat * displayW + c.toNat))]) false false true
          (.pageLoop :: w :: k)) :=
      reaches_engine (by simp [inside]; omega) hu (by simp [State.engineReady, inside, hfa]) rfl
    have rest := ih (c + 1) (tr ++ [.data (s.fb.read (s.page.toNat * displayW + c.toNat))]) (by omega)
    rw [hc1] at rest
    have all := ((step1.trans step2).trans step3).trans rest
    rw [pageBytes_drop _ _ hlt]
    have e : 1 + 4 * (r + 1) = 1 + 4 * r + (1 + (2 + 1)) := by omega
    rw [e]
    simpa using all

/-- STREAM_PAGE (R142) of a page below PAGE_COUNT after INIT: the page's transaction goes out, COL ends at DISPLAY_W, and nothing
else changes. -/
theorem reaches_streamPage {depth : Nat} {k : List Work} {s : State} (h : s.Answered) (hq : s.busQuiet = true)
    (hd : depth ≤ k.length) (hi : s.initDone = true) (hp : s.page.toNat < pageCount) :
    Reaches depth 525 (goOn (.streamPage :: k) s)
      (goOn k { s with col := BitVec.ofNat 8 displayW, wire := s.wire ++ pageTrace s.cfg s.fb s.page.toNat }) := by
  have a : Reaches depth 1 (goOn (.streamPage :: k) s)
      (goOn (.start :: .addr :: .pageCtrl :: .pageFirst :: .stop :: k) s) := by
    refine reaches_engine (by simp; omega) h.undisturbed (by simp [State.engineReady, h.fault]) ?_
    exact (if_pos hi).trans rfl
  have b := reaches_opening (depth := depth) (w := .pageCtrl) (k := .pageFirst :: .stop :: k) h hq (by simp; omega)
  have c : Reaches depth 1
      (inside s (s.wire ++ [.start, .addr (addressByte s.cfg)]) false true false (.pageCtrl :: .pageFirst :: .stop :: k))
      (busByte s.cfg.ctrlDataMulti (.pageFirst :: .stop :: k) (inside s (s.wire ++ [.start, .addr (addressByte s.cfg)])
        false true false (.pageCtrl :: .pageFirst :: .stop :: k))) :=
    reaches_engine (by simp [inside]; omega) h.undisturbed (by simp [State.engineReady, inside, h.fault]) rfl
  have d := reaches_busByte (depth := depth) s.cfg.ctrlDataMulti (k := .pageFirst :: .stop :: k)
    (inside_answered h (s.wire ++ [.start, .addr (addressByte s.cfg)]) false true false
      (.pageCtrl :: .pageFirst :: .stop :: k)) (by simp; omega) rfl
  have f : Reaches depth 1
      (inside s (s.wire ++ [.start, .addr (addressByte s.cfg)] ++ [.data s.cfg.ctrlDataMulti]) false false true
        (.pageFirst :: .stop :: k))
      (inside { s with col := 0 } (s.wire ++ [.start, .addr (addressByte s.cfg)] ++ [.data s.cfg.ctrlDataMulti]) false
        false true (.pageLoop :: .stop :: k)) :=
    reaches_engine (by simp [inside]; omega) h.undisturbed (by simp [State.engineReady, inside, h.fault]) rfl
  have g := reaches_pageLoop (depth := depth) (w := .stop) (k := k) h hd hp displayW 0
    (s.wire ++ [.start, .addr (addressByte s.cfg)] ++ [.data s.cfg.ctrlDataMulti]) rfl
  have i := reaches_stop (depth := depth) (k := k) (s := { s with col := BitVec.ofNat 8 displayW })
    ⟨h.device, h.undisturbed, h.fault⟩ hd hq
    (s.wire ++ [.start, .addr (addressByte s.cfg)] ++ [.data s.cfg.ctrlDataMulti] ++
      (pageBytes s.fb s.page.toNat).map .data)
  have all := (((((a.trans b).trans c).trans d).trans f).trans g).trans i
  rw [show 525 = 1 + (1 + 4 * displayW + 11) from rfl]
  simpa [pageTrace, transactionTrace] using all

theorem TxBuf.load_bytes (t : TxBuf) {bytes : List Byte} (h1 : 1 ≤ bytes.length) (h4 : bytes.length ≤ 4) :
    (t.load 0 bytes).bytes bytes.length = bytes := by
  match bytes, h1, h4 with
  | [_], _, _ => rfl
  | [_, _], _, _ => rfl
  | [_, _, _], _, _ => rfl
  | [_, _, _, _], _, _ => rfl

/-- The state after `bytes` were put in TXBUF and sent as one transaction. -/
def sent (bytes : List Byte) (s : State) : State :=
  { loadTx bytes s with txptr := BitVec.ofNat 3 bytes.length, wire := s.wire ++ transactionTrace s.cfg bytes }

@[simp] theorem sent_cfg (bytes : List Byte) (s : State) : (sent bytes s).cfg = s.cfg := rfl
@[simp] theorem sent_fb (bytes : List Byte) (s : State) : (sent bytes s).fb = s.fb := rfl
@[simp] theorem sent_page (bytes : List Byte) (s : State) : (sent bytes s).page = s.page := rfl
@[simp] theorem sent_fault (bytes : List Byte) (s : State) : (sent bytes s).fault = s.fault := rfl
@[simp] theorem sent_initDone (bytes : List Byte) (s : State) : (sent bytes s).initDone = s.initDone := rfl
@[simp] theorem sent_busQuiet (bytes : List Byte) (s : State) : (sent bytes s).busQuiet = s.busQuiet := rfl
@[simp] theorem sent_wire (bytes : List Byte) (s : State) :
    (sent bytes s).wire = s.wire ++ transactionTrace s.cfg bytes := rfl

theorem State.Answered.sent {s : State} (h : s.Answered) (bytes : List Byte) : (sent bytes s).Answered :=
  ⟨h.device, h.undisturbed, h.fault⟩

/-- TRANSACT of 1 to 4 bytes put in TXBUF just before it. -/
theorem reaches_send {depth : Nat} {k : List Work} {s : State} {bytes : List Byte} (h : s.Answered)
    (hq : s.busQuiet = true) (hd : depth ≤ k.length) (h1 : 1 ≤ bytes.length) (h4 : bytes.length ≤ 4) :
    Reaches depth (10 + 4 * bytes.length) (callTransact k (loadTx bytes s)) (goOn k (sent bytes s)) := by
  have hl : (loadTx bytes s).txlen.toNat = bytes.length := by simp; omega
  have := reaches_transact (depth := depth) (k := k) (s := loadTx bytes s) ⟨h.device, h.undisturbed, h.fault⟩ hq hd
    (by omega) (by omega)
  rw [hl] at this
  have e : (loadTx bytes s).txbuf.bytes bytes.length = bytes := TxBuf.load_bytes _ h1 h4
  rw [e] at this
  exact this

end Sys2Proof.Machine
end

