-- ==== Sys2Proof/Laws/Driver.lean ====
section
/-! SUPPORT. UPDATE and INIT from their first step to their end (41_display_driver.md R161, R168), inside whatever the engine is
doing. -/

namespace Sys2Proof.Machine

/-! ### UPDATE -/

/-- The state of UPDATE's loop once a page has gone out: PAGE is `p`, the last transaction of TXBUF was the upper column command,
and the wire trace is `tr`. -/
def pageSent (p : BitVec 4) (tr : List WireEvent) (s : State) : State :=
  { s with page := p, col := BitVec.ofNat 8 displayW, txbuf := s.txbuf.load 0 [s.cfg.ctrlCmdSingle, s.cfg.cmdColHi],
           txlen := 2, txptr := 2, wire := tr }

theorem pageSent_pageSent (p q : BitVec 4) (tr ur : List WireEvent) (s : State) :
    pageSent p tr (pageSent q ur s) = pageSent p tr s := rfl

theorem pageSent_answered {s : State} (h : s.Answered) (p : BitVec 4) (tr : List WireEvent) :
    (pageSent p tr s).Answered := ⟨h.device, h.undisturbed, h.fault⟩

/-- One addressing command of UPDATE: two bytes put in TXBUF and sent. -/
theorem reaches_command {depth : Nat} {w : Work} {k : List Work} {s : State} {b : Byte} (h : s.Answered)
    (hq : s.busQuiet = true) (hd : depth ≤ k.length) (hw : engineAt w k (goOn (w :: k) s) =
      .next (callTransact k (loadTx [s.cfg.ctrlCmdSingle, b] (goOn (w :: k) s))))
    (hr : (goOn (w :: k) s).engineReady = true) :
    Reaches depth 19 (goOn (w :: k) s) (goOn k (sent [s.cfg.ctrlCmdSingle, b] s)) := by
  have a : Reaches depth 1 (goOn (w :: k) s) (callTransact k (loadTx [s.cfg.ctrlCmdSingle, b] (goOn (w :: k) s))) :=
    reaches_engine (by simp; omega) h.undisturbed hr hw
  have c := reaches_send (depth := depth) (k := k) (s := s) (bytes := [s.cfg.ctrlCmdSingle, b]) h hq hd (by simp) (by simp)
  exact a.trans c

theorem sent_two (a b : Byte) (s : State) : sent [a, b] s =
    { s with txbuf := { s.txbuf with b0 := a, b1 := b }, txlen := 2, txptr := 2,
             wire := s.wire ++ transactionTrace s.cfg [a, b] } := rfl

theorem pageSent_eq (p : BitVec 4) (tr : List WireEvent) (s : State) : pageSent p tr s =
    { s with page := p, col := BitVec.ofNat 8 displayW,
             txbuf := { s.txbuf with b0 := s.cfg.ctrlCmdSingle, b1 := s.cfg.cmdColHi }, txlen := 2, txptr := 2,
             wire := tr } := rfl

/-- One page of UPDATE's loop. -/
theorem reaches_updatePage {depth : Nat} {k : List Work} {s : State} (h : s.Answered) (hq : s.busQuiet = true)
    (hd : depth ≤ k.length) (hi : s.initDone = true) (hp : s.page.toNat < pageCount) :
    Reaches depth 584 (goOn (.updateLoop :: k) s)
      (goOn (.updateLoop :: k) (pageSent (s.page + 1) (s.wire ++ updatePageTrace s.cfg s.fb s.page.toNat) s)) := by
  have ready : ∀ (w : Work) (l : List Work) (t : State), t.fault = none → w ≠ .waitStart → w ≠ .waitAddr →
      w ≠ .waitBtc → (goOn (w :: l) t).engineReady = true := by
    intro w l t hf h1 h2 h3
    cases w <;> simp_all [State.engineReady]
  have a : Reaches depth 1 (goOn (.updateLoop :: k) s)
      (goOn (.setPage :: .colLo :: .colHi :: .streamPage :: .updateNext :: k) s) := by
    refine reaches_engine (by simp; omega) h.undisturbed (ready _ _ _ h.fault nofun nofun nofun) ?_
    exact (if_pos hp).trans rfl
  have b := reaches_command (depth := depth) (w := .setPage) (k := .colLo :: .colHi :: .streamPage :: .updateNext :: k)
    (b := setPageByte s.cfg s.page) h hq (by simp; omega) rfl (ready _ _ _ h.fault nofun nofun nofun)
  obtain ⟨s1, hs1⟩ : ∃ t, t = sent [s.cfg.ctrlCmdSingle, setPageByte s.cfg s.page] s := ⟨_, rfl⟩
  have h1 : s1.Answered := hs1 ▸ h.sent _
  have q1 : s1.busQuiet = true := by rw [hs1, sent_busQuiet]; exact hq
  have g1 : s1.cfg = s.cfg := by rw [hs1, sent_cfg]
  have c := reaches_command (depth := depth) (w := .colLo) (k := .colHi :: .streamPage :: .updateNext :: k)
    (b := s1.cfg.cmdColLo) h1 q1 (by simp; omega) rfl (ready _ _ _ h1.fault nofun nofun nofun)
  obtain ⟨s2, hs2⟩ : ∃ t, t = sent [s1.cfg.ctrlCmdSingle, s1.cfg.cmdColLo] s1 := ⟨_, rfl⟩
  have h2 : s2.Answered := hs2 ▸ h1.sent _
  have q2 : s2.busQuiet = true := by rw [hs2, sent_busQuiet]; exact q1
  have g2 : s2.cfg = s.cfg := by rw [hs2, sent_cfg, g1]
  have d := reaches_command (depth := depth) (w := .colHi) (k := .streamPage :: .updateNext :: k)
    (b := s2.cfg.cmdColHi) h2 q2 (by simp; omega) rfl (ready _ _ _ h2.fault nofun nofun nofun)
  obtain ⟨s3, hs3⟩ : ∃ t, t = sent [s2.cfg.ctrlCmdSingle, s2.cfg.cmdColHi] s2 := ⟨_, rfl⟩
  have h3 : s3.Answered := hs3 ▸ h2.sent _
  have q3 : s3.busQuiet = true := by rw [hs3, sent_busQuiet]; exact q2
  have i3 : s3.initDone = true := by rw [hs3, sent_initDone, hs2, sent_initDone, hs1, sent_initDone]; exact hi
  have p3 : s3.page = s.page := by rw [hs3, sent_page, hs2, sent_page, hs1, sent_page]
  have f := reaches_streamPage (depth := depth) (k := .updateNext :: k) h3 q3 (by simp; omega) i3 (by rw [p3]; exact hp)
  obtain ⟨s4, hs4⟩ : ∃ t, t = ({ s3 with
    col := BitVec.ofNat 8 displayW, wire := s3.wire ++ pageTrace s3.cfg s3.fb s3.page.toNat } : State) := ⟨_, rfl⟩
  have h4 : s4.Answered := hs4 ▸ ⟨h3.device, h3.undisturbed, h3.fault⟩
  have g : Reaches depth 1 (goOn (.updateNext :: k) s4) (goOn (.updateLoop :: k) { s4 with page := s4.page + 1 }) :=
    reaches_engine (by simp; omega) h4.undisturbed (ready _ _ _ h4.fault nofun nofun nofun) rfl
  rw [← hs1] at b
  rw [← hs2] at c
  rw [← hs3] at d
  rw [← hs4] at f
  have all := ((((a.trans b).trans c).trans d).trans f).trans g
  have e : ({ s4 with page := s4.page + 1 } : State) =
      pageSent (s.page + 1) (s.wire ++ updatePageTrace s.cfg s.fb s.page.toNat) s := by
    have hb : s.cfg.cmdSetPage ||| BitVec.ofNat 8 s.page.toNat = setPageByte s.cfg s.page :=
      congrArg (s.cfg.cmdSetPage ||| ·) (BitVec.eq_of_toNat_eq (by simp))
    rw [g1] at hs2
    rw [g2] at hs3
    rw [hs4, hs3, hs2, hs1]
    simp only [sent_two, pageSent_eq, updatePageTrace, hb, List.append_assoc]
  rw [e] at all
  exact all

/-- The rest of UPDATE's loop, from a page after the first. -/
theorem reaches_updateRest {depth : Nat} {k : List Work} {s : State} (h : s.Answered) (hq : s.busQuiet = true)
    (hd : depth ≤ k.length) (hi : s.initDone = true) (r : Nat) : ∀ (p : BitVec 4) (tr : List WireEvent),
      p.toNat + r = pageCount →
      Reaches depth (1 + 584 * r) (goOn (.updateLoop :: k) (pageSent p tr s))
        (goOn k (pageSent 8 (tr ++ ((List.range pageCount).drop p.toNat).flatMap (updatePageTrace s.cfg s.fb)) s)) := by
  induction r with
  | zero =>
    intro p tr hp
    have hpe : p = 8#4 := BitVec.eq_of_toNat_eq (by simpa [pageCount] using hp)
    subst hpe
    refine reaches_engine (by simp; omega) h.undisturbed (by simp [State.engineReady, pageSent, h.fault]) ?_
    have hr : (List.range 8).drop 8 = [] := rfl
    simp [engine, engineAt, pageSent, pageCount, goOn, hr]
  | succ r ih =>
    intro p tr hp
    have hlt : p.toNat < pageCount := by omega
    have hp1 : (p + 1).toNat = p.toNat + 1 := by
      have hlt' : p.toNat < 8 := hlt
      rw [BitVec.toNat_add]; simp; omega
    have one := reaches_updatePage (depth := depth) (k := k) (s := pageSent p tr s) (pageSent_answered h p tr) hq hd hi hlt
    have rest := ih (p + 1) (tr ++ updatePageTrace s.cfg s.fb p.toNat) (by omega)
    have all := one.trans rest
    rw [hp1] at all
    have hdrop : (List.range pageCount).drop p.toNat = p.toNat :: (List.range pageCount).drop (p.toNat + 1) := by
      rw [List.drop_eq_getElem_cons (by simpa using hlt)]; simp
    rw [hdrop, List.flatMap_cons, ← List.append_assoc]
    have e : 1 + 584 * (r + 1) = 1 + 584 * r + 584 := by omega
    rw [e]
    exact all

/-- UPDATE (R168) after INIT: the eight pages go out in increasing order, and only the transport's registers change. -/
theorem reaches_update {depth : Nat} {k : List Work} {s : State} (h : s.Answered) (hq : s.busQuiet = true)
    (hd : depth ≤ k.length) (hi : s.initDone = true) :
    Reaches depth 4674 (goOn (.update :: k) s) (goOn k (pageSent 8 (s.wire ++ updateTrace s.cfg s.fb) s)) := by
  have a : Reaches depth 1 (goOn (.update :: k) s) (goOn (.updateLoop :: k) { s with page := 0 }) := by
    refine reaches_engine (by simp; omega) h.undisturbed (by simp [State.engineReady, h.fault]) ?_
    exact (if_pos hi).trans rfl
  have b := reaches_updatePage (depth := depth) (k := k) (s := { s with page := 0 })
    ⟨h.device, h.undisturbed, h.fault⟩ hq hd hi (by simp [pageCount])
  have c := reaches_updateRest (depth := depth) (k := k) (s := s) h hq hd hi 7 1
    (s.wire ++ updatePageTrace s.cfg s.fb 0) (by simp [pageCount])
  have all := (a.trans b).trans c
  have e : updateTrace s.cfg s.fb = updatePageTrace s.cfg s.fb 0 ++
      ((List.range pageCount).drop (1#4).toNat).flatMap (updatePageTrace s.cfg s.fb) := by rfl
  rw [e, ← List.append_assoc]
  exact all

/-! ### INIT -/

/-- The state of the transport once the transactions `ts` have gone out: the last one's bytes stand in TXBUF. -/
def transactionsSent (ts : List (List Byte)) (s : State) : State :=
  ts.foldl (fun u t => { sent t u with initptr := u.initptr + 1 }) s

/-- INIT's loop from INITPTR to the end of INIT_SEQ. -/
theorem reaches_initLoop {depth : Nat} {k : List Work} (hd : depth ≤ k.length) (ts : List (List Byte)) :
    ∀ (s : State), s.Answered → s.busQuiet = true → s.cfg.initSeq.drop s.initptr = ts →
      (∀ t ∈ ts, 1 ≤ t.length ∧ t.length ≤ 4) →
      ∃ n, n ≤ 1 + 28 * ts.length ∧
        Reaches depth n (goOn (.initLoop :: k) s) (goOn k { transactionsSent ts s with initDone := true }) := by
  induction ts with
  | nil =>
    intro s h hq hdrop _
    refine ⟨1, by simp, reaches_engine (by simp; omega) h.undisturbed (by simp [State.engineReady, h.fault]) ?_⟩
    have hn : s.cfg.initSeq[s.initptr]? = none := by
      rw [List.getElem?_eq_none_iff]; exact List.drop_eq_nil_iff.mp hdrop
    simp [engine, engineAt, hn, transactionsSent, goOn]
  | cons t ts ih =>
    intro s h hq hdrop hlen
    have hlt : s.initptr < s.cfg.initSeq.length := by
      apply Decidable.byContradiction; intro hc
      rw [List.drop_eq_nil_iff.mpr (by omega)] at hdrop; cases hdrop
    rw [List.drop_eq_getElem_cons hlt] at hdrop
    obtain ⟨hget, hrest⟩ := List.cons.inj hdrop
    have hsome : s.cfg.initSeq[s.initptr]? = some t := by rw [List.getElem?_eq_getElem hlt, hget]
    obtain ⟨ht1, ht4⟩ := hlen t (by simp)
    have a : Reaches depth 1 (goOn (.initLoop :: k) s) (callTransact (.initNext :: k) (loadTx t s)) := by
      refine reaches_engine (by simp; omega) h.undisturbed (by simp [State.engineReady, h.fault]) ?_
      simp [engine, engineAt, hsome, callTransact, loadTx]
    have b := reaches_send (depth := depth) (k := .initNext :: k) (s := s) (bytes := t) h hq (by simp; omega) ht1 ht4
    have c : Reaches depth 1 (goOn (.initNext :: k) (sent t s))
        (goOn (.initLoop :: k) { sent t s with initptr := s.initptr + 1 }) :=
      reaches_engine (by simp; omega) h.undisturbed (by simp [State.engineReady, h.fault]) rfl
    obtain ⟨n, hn, d⟩ := ih { sent t s with initptr := s.initptr + 1 } ⟨h.device, h.undisturbed, h.fault⟩ hq hrest
      (fun u hu => hlen u (by simp [hu]))
    refine ⟨n + (1 + (10 + 4 * t.length + 1)), by simp only [List.length_cons]; omega, ?_⟩
    exact ((a.trans b).trans c).trans d

end Sys2Proof.Machine
end

