-- ==== Sys2Proof/Laws/Invariant.lean ====
section
/-! SUPPORT. What every move keeps: the invariant of the machine, and the flags, the trace and the verdict that never go back. One
lemma per move, and one for `drive`. -/

namespace Sys2Proof.Machine

/-- What never goes back: the configuration stays, WIRE and the values read by HOST only grow (20_memory.md R66), INIT_DONE, TICK_EN
and PLAYING stay set (10_state.md R35 to R37), and a verdict stays recorded (60_exceptions.md R243). -/
structure Grows (s t : State) : Prop where
  cfg : t.cfg = s.cfg
  wire : s.wire <+: t.wire
  hostData : s.hostData <+: t.hostData
  initDone : s.initDone = true → t.initDone = true
  tickEn : s.tickEn = true → t.tickEn = true
  playing : s.playing = true → t.playing = true
  fault : ∀ c, s.fault = some c → t.fault = some c

theorem Grows.refl (s : State) : Grows s s := ⟨rfl, List.prefix_refl _, List.prefix_refl _, id, id, id, fun _ => id⟩

theorem Grows.trans {s t u : State} (h : Grows s t) (g : Grows t u) : Grows s u :=
  ⟨g.cfg.trans h.cfg, h.wire.trans g.wire, h.hostData.trans g.hostData, g.initDone ∘ h.initDone, g.tickEn ∘ h.tickEn,
   g.playing ∘ h.playing, fun c hc => g.fault c (h.fault c hc)⟩

theorem raiseFault_grows (code : FaultCode) (s : State) : Grows s (raiseFault code s) :=
  ⟨rfl, List.prefix_refl _, List.prefix_refl _, id, id, id, fun _ hc => by simp [hc]⟩

theorem decodeRun_grows (n : Byte) (s : State) : Grows s (decodeRun n s) := by
  unfold decodeRun
  split
  · exact ⟨rfl, List.prefix_refl _, List.prefix_refl _, id, id, id, fun _ hc => by simp [hc]⟩
  · exact ⟨rfl, List.prefix_refl _, List.prefix_refl _, id, id, id, fun _ hc => hc⟩

theorem busStep_grows (s : State) : Grows s (busStep s) := by
  unfold busStep
  split
  · exact ⟨rfl, List.prefix_append _ _, List.prefix_refl _, id, id, id, fun _ hc => hc⟩
  · split <;> exact ⟨rfl, List.prefix_refl _, List.prefix_refl _, id, id, id, fun _ hc => hc⟩

theorem countdown_grows (s : State) : Grows s (countdown s) := by
  unfold countdown
  split <;> exact ⟨rfl, List.prefix_refl _, List.prefix_refl _, id, id, id, fun _ hc => hc⟩

theorem tickIn_grows (s : State) : Grows s (tickIn s) :=
  ⟨rfl, List.prefix_refl _, List.prefix_refl _, id, id, id, fun _ hc => hc⟩

theorem hostRead_grows {reg : Nat} {s t : State} (h : hostRead reg s = .next t) : Grows s t := by
  unfold hostRead at h
  split at h
  · cases h
  · split at h
    · cases h
      exact ⟨rfl, List.prefix_refl _, List.prefix_append _ _, id, id, id, fun _ hc => hc⟩
    · cases h

theorem landBusy_grows {m : Move} {s t : State} (h : landBusy m s = .next t) : Grows s t := by
  cases m with
  | tick => cases h; exact tickIn_grows s
  | read reg => exact hostRead_grows h
  | write reg v => cases h

theorem engineAt_grows {w : Work} {k : List Work} {s t : State} (h : engineAt w k s = .next t) : Grows s t := by
  cases w
  all_goals simp only [engineAt] at h
  all_goals (try split at h)
  all_goals (try split at h)
  all_goals cases h
  all_goals first
    | exact Grows.refl _
    | exact raiseFault_grows _ _
    | exact decodeRun_grows _ _
    | exact ⟨rfl, List.prefix_refl _, List.prefix_refl _, id, id, id, fun _ hc => hc⟩
    | exact ⟨rfl, List.prefix_append _ _, List.prefix_refl _, id, id, id, fun _ hc => hc⟩
    | exact ⟨rfl, List.prefix_refl _, List.prefix_refl _, fun _ => rfl, id, id, fun _ hc => hc⟩
    | exact ⟨rfl, List.prefix_refl _, List.prefix_refl _, id, fun _ => rfl, id, fun _ hc => hc⟩
    | exact ⟨rfl, List.prefix_refl _, List.prefix_refl _, id, id, fun _ => rfl, fun _ hc => hc⟩

theorem engine_grows {s t : State} (h : engine s = .next t) : Grows s t := by
  unfold engine at h
  split at h
  · cases h; exact Grows.refl _
  · exact engineAt_grows h

theorem advance_grows {s t : State} (h : advance s = .next t) : Grows s t := by
  unfold advance at h
  split at h
  · exact (countdown_grows s).trans (engine_grows h)
  · cases h; exact (countdown_grows s).trans (busStep_grows _)

/-- A relation that every step inside an operation has is one `drive` has. -/
theorem drive_keeps {R : State → State → Prop} (refl : ∀ s, R s s) (trans : ∀ {s t u}, R s t → R t u → R s u)
    (adv : ∀ {s t}, s.seq ≠ [] → advance s = .next t → R s t)
    (land : ∀ {s t m rest}, s.seq ≠ [] → landBusy m { s with script := rest } = .next t → R s t) (fuel : Nat) :
    ∀ {depth : Nat} {s t : State}, drive fuel depth s = .next t → R s t := by
  induction fuel with
  | zero => intro depth s t h; cases h; exact refl _
  | succ fuel ih =>
    intro depth s t h
    simp only [drive] at h
    split at h
    · cases h; exact refl _
    · rename_i hlen
      have hne : s.seq ≠ [] := by intro hc; rw [hc] at hlen; simp at hlen
      split at h
      · split at h
        · rename_i hl; exact trans (land hne hl) (ih h)
        · cases h
        · cases h
      · split at h
        · split at h
          · rename_i ha; exact trans (adv hne ha) (ih h)
          · cases h
          · cases h
        · cases h; exact refl _

theorem drive_grows {fuel depth : Nat} {s t : State} (h : drive fuel depth s = .next t) : Grows s t :=
  drive_keeps (R := Grows) Grows.refl Grows.trans (fun _ => advance_grows)
    (fun _ hl => have g := landBusy_grows hl; ⟨g.cfg, g.wire, g.hostData, g.initDone, g.tickEn, g.playing, g.fault⟩)
    fuel h

/-! ### The invariant -/

theorem raiseFault_inv {code : FaultCode} {s : State} (h : s.Inv) (hs : s.seq ≠ []) : (raiseFault code s).Inv :=
  ⟨h.fb, h.busy, fun _ => by rw [raiseFault_busy, h.busy]; simpa using hs, h.idx, h.pend, h.playing⟩

theorem decodeRun_inv {n : Byte} {s : State} (h : s.Inv) (hs : s.seq ≠ []) : (decodeRun n s).Inv := by
  have hb : s.busy = true := by rw [h.busy]; simpa using hs
  unfold decodeRun
  split
  · exact ⟨h.fb, h.busy, fun _ => hb, h.idx, h.pend, h.playing⟩
  · rename_i hfit
    refine ⟨Memory.wf_fill h.fb _ _ _ (by omega), h.busy, h.fault, ?_, h.pend, h.playing⟩
    simp only [BitVec.toNat_ofNat]
    exact Nat.le_trans (Nat.mod_le _ _) (by omega)

theorem busStep_inv {s : State} (h : s.Inv) : (busStep s).Inv := by
  unfold busStep
  split
  · exact ⟨h.fb, h.busy, h.fault, h.idx, h.pend, h.playing⟩
  · split <;> exact ⟨h.fb, h.busy, h.fault, h.idx, h.pend, h.playing⟩

theorem countdown_inv {s : State} (h : s.Inv) : (countdown s).Inv := by
  unfold countdown
  split <;> exact ⟨h.fb, h.busy, h.fault, h.idx, h.pend, h.playing⟩

theorem countdown_seq (s : State) : (countdown s).seq = s.seq := by
  unfold countdown
  split <;> rfl

theorem tickIn_inv {s : State} (h : s.Inv) : (tickIn s).Inv :=
  ⟨h.fb, h.busy, h.fault, h.idx, fun hp => by
    have hp' : (s.tickPend || s.tickEn) = true := hp
    rw [Bool.or_eq_true] at hp'
    exact hp'.elim h.pend id, h.playing⟩

theorem hostRead_inv {reg : Nat} {s t : State} (h : s.Inv) (hr : hostRead reg s = .next t) : t.Inv := by
  unfold hostRead at hr
  split at hr
  · cases hr
  · split at hr
    · cases hr
      exact ⟨h.fb, h.busy, h.fault, h.idx, h.pend, h.playing⟩
    · cases hr

theorem landBusy_inv {m : Move} {s t : State} (h : s.Inv) (hl : landBusy m s = .next t) : t.Inv := by
  cases m with
  | tick => cases hl; exact tickIn_inv h
  | read reg => exact hostRead_inv h hl
  | write reg v => cases hl

/-- Where FAULT = NONE, moving along the pseudocode keeps the rest of the invariant. -/
theorem goOn_inv {k : List Work} {s : State} (hf : s.fault = none) (fb : s.fb.wf = true) (idx : s.idx.toNat ≤ fbSize)
    (pend : s.tickPend = true → s.tickEn = true) (playing : s.playing = true → s.initDone = true) : (goOn k s).Inv :=
  ⟨fb, rfl, fun hc => absurd hf hc, idx, pend, playing⟩

theorem engineAt_inv {w : Work} {k : List Work} {s t : State} (h : s.Inv) (hs : s.seq = w :: k) (hf : s.fault = none)
    (he : engineAt w k s = .next t) : t.Inv := by
  have hne : s.seq ≠ [] := by rw [hs]; simp
  cases w
  all_goals simp only [engineAt] at he
  all_goals (try split at he)
  all_goals (try split at he)
  all_goals cases he
  all_goals first
    | exact h
    | exact raiseFault_inv h hne
    | exact decodeRun_inv h hne
    | exact goOn_inv hf h.fb h.idx h.pend h.playing
    | exact goOn_inv hf h.fb h.idx h.pend (fun _ => rfl)
    | exact goOn_inv hf h.fb h.idx (fun _ => rfl) h.playing
    | exact goOn_inv hf h.fb h.idx nofun h.playing
    | exact goOn_inv hf h.fb (Nat.zero_le _) h.pend h.playing
    | exact goOn_inv hf rfl (Nat.le_refl 1024) h.pend h.playing
    | exact ⟨h.fb, rfl, fun _ => rfl, h.idx, h.pend, h.playing⟩
    | exact goOn_inv hf h.fb h.idx h.pend (fun _ => by assumption)

theorem advance_inv {s t : State} (h : s.Inv) (ha : advance s = .next t) : t.Inv := by
  unfold advance at ha
  split at ha
  · rename_i hr
    have hf : s.fault = none := by
      simp only [State.engineReady, Bool.and_eq_true, Option.isNone_iff_eq_none] at hr; exact hr.1
    have hcf : (countdown s).fault = none := by unfold countdown; split <;> exact hf
    unfold engine at ha
    split at ha
    · cases ha; exact countdown_inv h
    · rename_i w k hs
      exact engineAt_inv (countdown_inv h) hs hcf ha
  · cases ha; exact busStep_inv (countdown_inv h)

theorem acceptTick_inv {s : State} (h : s.Inv) (ha : s.acceptable = true) : (acceptTick s).Inv := by
  have hf : s.fault = none := by
    simp only [State.acceptable, Bool.and_eq_true, Option.isNone_iff_eq_none] at ha; exact ha.2
  have c := countdown_inv h
  have hc : (countdown s).fault = none := by unfold countdown; split <;> exact hf
  exact ⟨c.fb, rfl, fun hn => absurd hc hn, c.idx, c.pend, c.playing⟩

/-- The invariant says nothing about the lines still to come. -/
theorem script_inv {s : State} (h : s.Inv) (rest : List Line) : ({ s with script := rest } : State).Inv :=
  ⟨h.fb, h.busy, h.fault, h.idx, h.pend, h.playing⟩

theorem drive_inv {fuel depth : Nat} {s t : State} (hi : s.Inv) (h : drive fuel depth s = .next t) : t.Inv :=
  drive_keeps (R := fun s t => s.Inv → t.Inv) (fun _ => id) (fun f g => g ∘ f) (fun _ ha hi => advance_inv hi ha)
    (fun _ hl hi => landBusy_inv (script_inv hi _) hl) fuel h hi

end Sys2Proof.Machine
end

