-- ==== Sys2Proof/Laws/Operation.lean ====
section
/-! SUPPORT. A host operation as a whole: how one that reaches its end, or its fault verdict, is answered (60_exceptions.md R235,
R236, R243), and what the transactions of INIT leave. -/

namespace Sys2Proof.Machine

/-- HOST may start an operation on an idle block. -/
theorem State.Idle.hostMay {s : State} (h : s.Idle) : s.hostMay = true := by simp [State.hostMay, h.2.1, h.2.2.1]

theorem State.Clear.answered {s : State} (h : s.Clear) : s.Answered := ⟨h.2.1, h.2.2.1, h.2.2.2⟩

/-- With nothing left to do, SEQ and BUSY are those of an idle block. -/
theorem goOn_idle {s : State} (hs : s.seq = []) (hb : s.busy = false) : goOn [] s = s := by
  cases s; simp_all [goOn]

/-- Every operation may take at least so many steps, and a DECODE as many as the stream has runs. -/
theorem State.fuel_ge (s : State) : 8192 + s.cfg.stream.length ≤ s.fuel := by unfold State.fuel; omega

/-- A host operation that reaches its end answers the state at its end. -/
theorem hostOp_ends {w : Work} {n : Nat} {s t : State} (hm : s.hostMay = true) (h : Reaches 0 n (begin w s) t)
    (ht : t.seq = []) (hn : n ≤ s.fuel) : hostOp w s = .next t := by
  unfold hostOp runOp
  rw [if_pos hm]
  exact h.drive_eq (by simp [ht]) hn

/-- A host operation that raises a verdict with no transaction open answers the state with the verdict. -/
theorem hostOp_stops {w : Work} {n : Nat} {s t : State} (hm : s.hostMay = true) (h : Reaches 0 n (begin w s) t)
    (hn : n ≤ s.fuel) (hu : s.undisturbed = true) (hq : s.busQuiet = true) (hs : t.startReq = s.startReq)
    (ha : t.await = s.await) (hl : t.script = s.script) (hf : t.fault ≠ none) : hostOp w s = .next t := by
  unfold hostOp runOp
  rw [if_pos hm]
  rw [State.busQuiet_iff] at hq
  have he : t.engineReady = false := by
    cases hx : t.fault with
    | none => exact absurd hx hf
    | some c => simp [State.engineReady, hx]
  refine h.drive_stuck ?_ he ?_ hn
  · unfold State.undisturbed at *; rw [hl]; exact hu
  · simp [State.busReady, State.grantEnabled, hs, ha, hq]

/-- What the transactions of INIT leave: the last one's bytes in TXBUF, the traces in order, INITPTR past them. -/
theorem transactionsSent_eq (ts : List (List Byte)) : ∀ s : State, transactionsSent ts s = { s with
    initptr := s.initptr + ts.length,
    txbuf := ts.foldl (fun u t => u.load 0 t) s.txbuf,
    txlen := (ts.getLast?.map fun t => BitVec.ofNat 3 t.length).getD s.txlen,
    txptr := (ts.getLast?.map fun t => BitVec.ofNat 3 t.length).getD s.txptr,
    wire := s.wire ++ ts.flatMap (transactionTrace s.cfg) } := by
  induction ts with
  | nil => intro s; simp [transactionsSent]
  | cons t ts ih =>
    intro s
    have h : transactionsSent (t :: ts) s = transactionsSent ts { sent t s with initptr := s.initptr + 1 } := rfl
    rw [h, ih]
    simp [sent, loadTx, List.getLast?_cons]
    omega

end Sys2Proof.Machine
end

