-- ==== Sys2Proof/Laws/Panel.lean ====
section
/-! SUPPORT. The informative device model (41_display_driver.md R188): traces one after another, and a display data byte in page
addressing mode. -/

namespace Sys2Proof.Machine

/-- A trace and another behind it. -/
theorem Panel.watch_append (c : Config) (d : Panel) (l r : List WireEvent) :
    d.watch c (l ++ r) = (d.watch c l).watch c r := by
  induction l generalizing d with
  | nil => rfl
  | cons e l ih => exact ih (d.see c e)

/-- In page addressing mode, at a column of the page, a display data byte is stored and COLPTR goes on within the page. -/
theorem Panel.store_page {d : Panel} (hm : d.mode = pageMode) (hc : d.colPtr.toNat < displayW) (b : Byte) :
    d.store b = { d with ram := ((d.pagePtr.toNat, d.colPtr.toNat), b) :: d.ram,
                         colPtr := BitVec.ofNat 8 ((d.colPtr.toNat + 1) % displayW) } :=
  if_pos ⟨hm, hc⟩

/-- A display data byte leaves MODE, in whatever mode. -/
@[simp] theorem Panel.store_mode (d : Panel) (b : Byte) : (d.store b).mode = d.mode := by
  unfold Panel.store
  split <;> rfl

/-- What is read of GDDRAM behind a write of one byte. -/
theorem Panel.gddram_cons (d : Panel) (p c p' c' : Nat) (b : Byte) :
    Panel.gddram { d with ram := ((p, c), b) :: d.ram } p' c' = if p = p' ∧ c = c' then some b else d.gddram p' c' := by
  by_cases h : p = p' ∧ c = c'
  · obtain ⟨rfl, rfl⟩ := h; simp [Panel.gddram]
  · have : ((p, c) == (p', c')) = false := by simpa [Prod.ext_iff] using h
    rw [if_neg h, Panel.gddram, List.find?_cons]
    simp only [this, Panel.gddram]

end Sys2Proof.Machine
end

