-- ==== Sys2Proof/Laws/PerInstr.lean ====
section
/-! SUPPORT. Statements about every instruction, one lemma per constructor (LAWS.json). -/

namespace Sys2Proof.Laws.EncodedLength

/-- An instruction's encoding has the bytes of its row's format, whatever the parameters (30_encoding.md R120). -/
def Statement (i : Instr) : Prop := ∀ c : Config, (encode c i).length = i.format.size

theorem clear : Statement (.clear) := fun _ => rfl
theorem decode : Statement (.decode) := fun _ => rfl
theorem update : Statement (.update) := fun _ => rfl
theorem init : Statement (.init) := fun _ => rfl
theorem transact : Statement (.transact) := fun _ => rfl
theorem streamPage : Statement (.streamPage) := fun _ => rfl
theorem arm : Statement (.arm) := fun _ => rfl
theorem tick : Statement (.tick) := fun _ => rfl
theorem addrWrite (a : BitVec 7) : Statement (.addrWrite a) := fun _ => rfl
theorem addrRead (a : BitVec 7) : Statement (.addrRead a) := fun _ => rfl
theorem ctrlCmdSingle : Statement (.ctrlCmdSingle) := fun _ => rfl
theorem ctrlCmdMulti : Statement (.ctrlCmdMulti) := fun _ => rfl
theorem ctrlDataSingle : Statement (.ctrlDataSingle) := fun _ => rfl
theorem ctrlDataMulti : Statement (.ctrlDataMulti) := fun _ => rfl
theorem dcSetPage (p : BitVec 3) : Statement (.dcSetPage p) := fun _ => rfl
theorem dcColLo (l : BitVec 4) : Statement (.dcColLo l) := fun _ => rfl
theorem dcColHi (h : BitVec 4) : Statement (.dcColHi h) := fun _ => rfl
theorem dcDisplayOff : Statement (.dcDisplayOff) := fun _ => rfl
theorem dcAddrMode (m : BitVec 2) : Statement (.dcAddrMode m) := fun _ => rfl
theorem dcMuxRatio (r : BitVec 6) : Statement (.dcMuxRatio r) := fun _ => rfl
theorem dcDisplayOffset (o : BitVec 6) : Statement (.dcDisplayOffset o) := fun _ => rfl
theorem dcSegRemap (g : BitVec 1) : Statement (.dcSegRemap g) := fun _ => rfl
theorem dcComScan (d : BitVec 1) : Statement (.dcComScan d) := fun _ => rfl
theorem dcComPins (a : BitVec 1) (b : BitVec 1) : Statement (.dcComPins a b) := fun _ => rfl
theorem dcContrast (c : BitVec 8) : Statement (.dcContrast c) := fun _ => rfl
theorem dcDisplayRam : Statement (.dcDisplayRam) := fun _ => rfl
theorem dcNormal : Statement (.dcNormal) := fun _ => rfl
theorem dcOsc (f : BitVec 4) (d : BitVec 4) : Statement (.dcOsc f d) := fun _ => rfl
theorem dcPrecharge (b : BitVec 4) (a : BitVec 4) : Statement (.dcPrecharge b a) := fun _ => rfl
theorem dcVcomh (v : BitVec 3) : Statement (.dcVcomh v) := fun _ => rfl
theorem dcChargePump (e : BitVec 1) : Statement (.dcChargePump e) := fun _ => rfl
theorem dcDisplayOn : Statement (.dcDisplayOn) := fun _ => rfl
theorem run (n : BitVec 8) : Statement (.run n) := fun _ => rfl

end Sys2Proof.Laws.EncodedLength
end

