-- ==== Sys2Proof/Laws/Step.lean ====
section
/-! SUPPORT. Which branch of `turn` a step takes, and the framebuffer window of the host registers (10_state.md R40, R47). -/

namespace Sys2Proof.Machine

/-- No line is due where none may land while an operation runs. -/
theorem lineDue_of_undisturbed {s : State} (h : s.undisturbed = true) : s.lineDue = false := by
  unfold State.undisturbed at h
  unfold State.lineDue
  split <;> simp_all

/-- A step in which the next line lands, or HOST waits with it. -/
theorem step_lineLands {s : State} (hw : s.cfg.wf = true) (hl : s.lineLands = true) :
    step s = if s.lineDue then landLine exec s else quietLine exec s := by
  cases hd : s.lineDue with
  | true => simp [step, turn, hw, hd]
  | false =>
    simp only [State.lineLands, hd, Bool.false_or, Bool.and_eq_true, Bool.not_eq_true'] at hl
    simp [step, turn, hw, hd, hl]

/-- On an idle, unarmed block with nothing for BUS to do, the next line lands, whatever its moment. -/
theorem step_idle_line {s : State} {l : Line} {rest : List Line} (hw : s.cfg.wf = true) (hi : s.Idle)
    (hb : s.busReady = false) (hs : s.script = l :: rest) : step s = landLine exec s := by
  obtain ⟨h1, h2, h3, _⟩ := hi
  have hl : s.lineLands = true := by simp [State.lineLands, State.engineReady, h1, hb, State.acceptable, h3]
  rw [step_lineLands hw hl]
  simp [quietLine, hs, h2]

/-- No line landing, accept_tick is BUSY <- 1 and SEQ at the first step of TICK (60_exceptions.md R233). -/
theorem acceptTick_of_undisturbed {s : State} (h : s.undisturbed = true) : acceptTick s = begin .tick s := by
  rw [acceptTick, countdown_of_undisturbed h]

/-- The instruction TICK where its event makes the tick acceptable: accepted and served. -/
theorem execTick_acceptable {s : State} (hu : s.undisturbed = true) (ha : (tickIn s).acceptable = true) :
    execTick s = serveTick (begin .tick (tickIn s)) := by
  rw [execTick, if_pos ha, acceptTick_of_undisturbed (by exact hu)]

/-- The instruction TICK where the tick is neither acceptable nor accepted: the event alone. -/
theorem execTick_pending {s : State} (ha : (tickIn s).acceptable = false) (hn : s.tickAccepted = false) :
    execTick s = .next (tickIn s) := by
  rw [execTick, ha, hn]; rfl

/-- accept_tick where nothing else can move, no line landing (60_exceptions.md R233). -/
theorem step_acceptTick {s : State} (hw : s.cfg.wf = true) (hu : s.undisturbed = true) (hr : s.engineReady = false)
    (hb : s.busReady = false) (ha : s.acceptable = true) : step s = .next (begin .tick s) := by
  simp [step, turn, hw, lineDue_of_undisturbed hu, hr, hb, ha, acceptTick_of_undisturbed hu]

/-- The step after accept_tick, no line landing, is TICK (60_exceptions.md R233). -/
theorem step_serveTick {s : State} (hw : s.cfg.wf = true) (hu : s.undisturbed = true) (hf : s.fault = none)
    (hs : s.seq = [.tick]) : step s = exec .tick s := by
  simp [step, turn, hw, lineDue_of_undisturbed hu, State.engineReady, hf, hs, operationTurn, fetch]

/-- One step inside an operation, no line landing: the engine's own step where nothing is fetched. -/
theorem step_engine {s : State} (hw : s.cfg.wf = true) (hu : s.undisturbed = true) (hr : s.engineReady = true)
    (hf : fetch s = none) : step s = engine s := by
  simp [step, turn, hw, lineDue_of_undisturbed hu, hr, operationTurn, hf, hu]

/-- One step of BUS, no line landing. -/
theorem step_bus {s : State} (hw : s.cfg.wf = true) (hu : s.undisturbed = true) (hr : s.engineReady = false)
    (hb : s.busReady = true) : step s = .next (busStep s) := by
  simp [step, turn, hw, lineDue_of_undisturbed hu, hr, hb, hu]

/-- A line that lands while HOST has no move but a read of STATUS changes TICK_PEND and HOST's own data at most. -/
theorem landLine_busy {s t : State} (hm : s.hostMay = false) (h : landLine exec s = .next t) :
    t = { s with tickPend := t.tickPend, script := t.script, hostData := t.hostData } := by
  unfold landLine at h
  split at h
  · cases h; rfl
  · cases h; rfl
  · unfold hostRead at h
    split at h
    · cases h
    · split at h
      · cases h; rfl
      · cases h
  · unfold hostWrite at h
    rw [if_pos (by exact hm)] at h
    cases h

/-- A read of FBW[j] (R47). -/
theorem readReg_fbw (s : State) {j : Nat} (h : j < fbSize) :
    readReg s (1024 + j) = some ((s.fb.read j).setWidth 32) := by
  have h' : j < 1024 := h
  unfold readReg
  split <;> try omega
  rw [if_pos (by omega), Nat.add_sub_cancel_left]

/-- A write of FBW[j] (R47). -/
theorem writeReg_fbw (s : State) {j : Nat} (h : j < fbSize) (v : Word) :
    writeReg s (1024 + j) v = some { s with fb := s.fb.write j (v.setWidth 8) } := by
  have h' : j < 1024 := h
  unfold writeReg
  split <;> try omega
  rw [if_pos (by omega), Nat.add_sub_cancel_left]

end Sys2Proof.Machine
end

