-- ==== Sys2Proof/Tests/Slice0.lean ====
section
/-! SUPPORT. The tests: ill-formed terms refused, words written out from the spec's encodings, single steps with results taken from
95_test_vectors.md, and for every statement with hypotheses a state that meets them. -/

namespace Sys2Proof.Tests

open Sys2Proof Sys2Proof.Machine

/-! ### Helpers: small states -/

/-- The default configuration with an animation. -/
def withStream (stream : List Byte) (frames : Nat) : Config := { Config.standard with stream := stream, totalFrames := frames }

/-- An idle block with a stream and the cursor at `o`. -/
def cursorAt (stream : List Byte) (o : BitVec 32) : State := { State.reset with cfg := withStream stream 1, offset := o }

/-- An idle block after INIT. -/
def ready : State := { State.reset with initDone := true }

/-- An idle block after INIT and ARM, with the one-frame animation [255, 1] (V42). -/
def armed : State := { ready with cfg := withStream [255, 1] 1, tickEn := true }

/-- An idle block with bytes in TXBUF and BUS as said. -/
def loaded (device : Device) (n : BitVec 3) (b : TxBuf) : State := { State.reset with device := device, txlen := n, txbuf := b }

/-- The block with one line for HOST or TIMER, when nothing else moves. -/
def withLine (m : Move) (s : State) : State := { s with script := [⟨.quiet, m⟩] }

/-- The engine inside an operation, at the points `q`. -/
def at' (q : List Work) (s : State) : State := { s with seq := q, busy := true }

/-- The state of a next state; the state it came from otherwise. -/
def after (o : Host.Outcome State Fault Refusal) : State :=
  match o with
  | .next t => t
  | _ => State.reset

/-! ### Well-formedness: one ill-formed term per check (00_scope.md R8, 30_encoding.md R104) -/

theorem test_column_start_above_127_is_ill_formed : (Instr.dcColHi 8).wellFormed = false := by decide
theorem test_column_start_127_is_well_formed : (Instr.dcColHi 7).wellFormed = true := by decide
theorem test_default_config_passes : Config.standard.wf = true := by decide
theorem test_K2_zero_width : Config.wf { Config.standard with srcW := 0 } = false := by decide
theorem test_K2_width_not_a_divisor : Config.wf { Config.standard with srcW := 3 } = false := by decide
theorem test_K2_width_above_the_display : Config.wf { Config.standard with srcW := 256 } = false := by decide
theorem test_K3_no_frames : Config.wf { Config.standard with totalFrames := 0 } = false := by decide
theorem test_K3_too_many_frames : Config.wf { Config.standard with totalFrames := 2 ^ 32 } = false := by decide
theorem test_K3_stream_too_long (c : Config) (h : 2 ^ 32 ≤ c.streamLen) : c.countsOk = false := by
  simp [Config.countsOk]; omega
theorem test_K5_page_base : Config.wf { Config.standard with cmdSetPage := 0xB1 } = false := by decide
theorem test_K5_lower_column_base : Config.wf { Config.standard with cmdColLo := 0x08 } = false := by decide
theorem test_K5_upper_column_base : Config.wf { Config.standard with cmdColHi := 0x11 } = false := by decide
theorem test_K5_empty_transaction : Config.wf { Config.standard with initSeq := [[]] } = false := by decide
theorem test_K5_transaction_of_five : Config.wf { Config.standard with initSeq := [[0, 1, 2, 3, 4]] } = false := by decide
theorem test_K4_exact : (withStream [255, 1, 0, 255, 0, 1] 2).streamOk = true := by decide
theorem test_K4_overrun : (withStream [255, 2] 1).streamOk = false := by decide
theorem test_K4_underrun : (withStream [100, 100] 1).streamOk = false := by decide
theorem test_K4_bytes_left_over : (withStream [255, 1, 0] 1).streamOk = false := by decide

/-! ### Decoding: each row's bits as 30_encoding.md prints them, fields filled in -/

theorem test_decode_hostop8 :
    decode Config.standard .hostop8 [0b00000001] = .ok .clear [] ∧
    decode Config.standard .hostop8 [0b00000010] = .ok .decode [] ∧
    decode Config.standard .hostop8 [0b00000011] = .ok .update [] ∧
    decode Config.standard .hostop8 [0b00000100] = .ok .init [] ∧
    decode Config.standard .hostop8 [0b00000101] = .ok .transact [] ∧
    decode Config.standard .hostop8 [0b00000110] = .ok .streamPage [] ∧
    decode Config.standard .hostop8 [0b00000111] = .ok .arm [] := by decide
/-- V2. -/
theorem test_decode_reserved_codes :
    [0x00, 0x08, 0x7F, 0x80, 0xFF].all fun b => decode Config.standard .hostop8 [b] = .rejected .reservedCode := by decide
theorem test_decode_evt1 : decode Config.standard .evt1 [0b1] = .ok .tick [] ∧
    decode Config.standard .evt1 [0b0] = .rejected .noEvent := by decide
/-- V3. -/
theorem test_decode_addr8 : decode Config.standard .addr8 [0b01111010] = .ok (.addrWrite 0x3D) [] ∧
    decode Config.standard .addr8 [0b11111111] = .ok (.addrRead 0x7F) [] := by decide
theorem test_decode_ctrl8 :
    decode Config.standard .ctrl8 [0b10000000] = .ok .ctrlCmdSingle [] ∧
    decode Config.standard .ctrl8 [0b00000000] = .ok .ctrlCmdMulti [] ∧
    decode Config.standard .ctrl8 [0b11000000] = .ok .ctrlDataSingle [] ∧
    decode Config.standard .ctrl8 [0b01000000] = .ok .ctrlDataMulti [] ∧
    decode Config.standard .ctrl8 [0b01000001] = .rejected .notControl := by decide
theorem test_decode_addressing_commands :
    decode Config.standard .dcmd8 [0b10110110] = .ok (.dcSetPage 6) [] ∧
    decode Config.standard .dcmd8 [0b00000101] = .ok (.dcColLo 5) [] ∧
    decode Config.standard .dcmd8 [0b00010010] = .ok (.dcColHi 2) [] := by decide
theorem test_decode_dcmd8 :
    decode Config.standard .dcmd8 [0b10101110] = .ok .dcDisplayOff [] ∧
    decode Config.standard .dcmd8 [0b10100001] = .ok (.dcSegRemap 1) [] ∧
    decode Config.standard .dcmd8 [0b11001000] = .ok (.dcComScan 1) [] ∧
    decode Config.standard .dcmd8 [0b10100100] = .ok .dcDisplayRam [] ∧
    decode Config.standard .dcmd8 [0b10100110] = .ok .dcNormal [] ∧
    decode Config.standard .dcmd8 [0b10101111] = .ok .dcDisplayOn [] ∧
    decode Config.standard .dcmd8 [0b10101101] = .rejected .unknownCommand := by decide
theorem test_decode_dcmd16_fields :
    decode Config.standard .dcmd16 [0b00100000, 0b00000010] = .ok (.dcAddrMode 2) [] ∧
    decode Config.standard .dcmd16 [0b10101000, 0b00111111] = .ok (.dcMuxRatio 63) [] ∧
    decode Config.standard .dcmd16 [0b11010011, 0b00000001] = .ok (.dcDisplayOffset 1) [] ∧
    decode Config.standard .dcmd16 [0b11011010, 0b00100010] = .ok (.dcComPins 1 0) [] ∧
    decode Config.standard .dcmd16 [0b10000001, 0b11001111] = .ok (.dcContrast 0xCF) [] := by decide
theorem test_decode_dcmd16_timing :
    decode Config.standard .dcmd16 [0b11010101, 0b10000001] = .ok (.dcOsc 8 1) [] ∧
    decode Config.standard .dcmd16 [0b11011001, 0b11110001] = .ok (.dcPrecharge 15 1) [] ∧
    decode Config.standard .dcmd16 [0b11011011, 0b00100000] = .ok (.dcVcomh 2) [] ∧
    decode Config.standard .dcmd16 [0b10001101, 0b00010100] = .ok (.dcChargePump 1) [] ∧
    decode Config.standard .dcmd16 [0b10001101, 0b00000100] = .rejected .unknownCommand ∧
    decode Config.standard .dcmd16 [0b10001101] = .rejected .truncated := by decide
theorem test_decode_rle8 : decode Config.standard .rle8 [0b00000000, 0x07] = .ok (.run 0) [0x07] ∧
    decode Config.standard .rle8 [] = .rejected .truncated := by decide
/-- Table words: the opcode byte of a DCMD16 row is bits 15:8 (30_encoding.md R120). -/
theorem test_table_words :
    decodeTableWord 16 0x8D14 = some (.dcChargePump 1) ∧ decodeTableWord 8 0x04 = some .init ∧
    decodeTableWord 8 0xAE = some .dcDisplayOff ∧ decodeTableWord 8 0x79 = some (.addrRead 0x3C) ∧
    decodeTableWord 1 1 = some .tick := by decide
/-- The default INIT_SEQ is sixteen controller commands of the table, the fourteen steps in order (41_display_driver.md R162,
R163). -/
theorem test_default_init_seq_decodes : Config.standard.initSeq.map (decodeTransaction Config.standard) =
    [some .dcDisplayOff, some (.dcAddrMode 2), some (.dcSetPage 0), some (.dcMuxRatio 63), some (.dcDisplayOffset 0),
     some (.dcSegRemap 1), some (.dcComScan 1), some (.dcComPins 0 1), some (.dcContrast 0x7F), some .dcDisplayRam,
     some .dcNormal, some (.dcOsc 8 0), some (.dcPrecharge 2 2), some (.dcVcomh 2), some (.dcChargePump 1),
     some .dcDisplayOn] := by decide

/-! ### Single steps (95_test_vectors.md) -/

/-- V12b. -/
theorem test_transact : (after (exec .transact (loaded .present 3 ⟨0x00, 0x81, 0xCF, 0x55⟩))).wire =
    [.start, .addr 0x78, .data 0x00, .data 0x81, .data 0xCF, .stop] := by decide
/-- V12f. -/
theorem test_transact_of_five : (after (exec .transact (loaded .present 5 ⟨1, 2, 3, 4⟩))).fault = some .txlen := by decide
/-- V13g. -/
theorem test_transact_without_device : (after (exec .transact (loaded (.answers 1) 2 ⟨0x80, 0xB3, 0, 0⟩))).wire =
    [.start, .addr 0x78] ∧
    (after (exec .transact (loaded (.answers 1) 2 ⟨0x80, 0xB3, 0, 0⟩))).status &&& 0x0F9F = 0x0801 := by decide
/-- V11, step 5: STATUS after addr_ack, which is the sixth step of ENGINE and BUS here. -/
theorem test_status_inside_a_transaction :
    (after (exec .transact { loaded .present 2 ⟨0x80, 0xB3, 0, 0⟩ with script := [⟨.after 6, .read 1⟩] })).hostData =
      [0x0A01] := by decide
/-- V13b, a short cut of it: page 7 starts at FB[896]. -/
theorem test_stream_page_reads_its_page :
    (after (exec .streamPage { ready with argPage := 7, fb := [(895, 0x11), (896, 0x22), (897, 0x33)] })).wire.take 6 =
      [.start, .addr 0x78, .data 0x40, .data 0x22, .data 0x33, .data 0x00] := by decide +kernel
/-- V13d. -/
theorem test_stream_page_before_init : (after (exec .streamPage State.reset)).fault = some .notInit ∧
    (after (exec .streamPage State.reset)).wire = [] := by decide
/-- V14a: the last transaction in TXBUF, the fifteenth's third byte behind it. -/
theorem test_init : (after (exec .init State.reset)).initDone = true ∧
    (after (exec .init State.reset)).txbuf = ⟨0x80, 0xAF, 0x14, 0x00⟩ ∧
    (after (exec .init State.reset)).wire.length = 89 := by decide +kernel
/-- V14b. -/
theorem test_init_twice : (after (exec .init ready)).fault = some .reinit := by decide
/-- V15d. -/
theorem test_update_before_init : (after (exec .update State.reset)).fault = some .notInit := by decide
/-- The start of V15a, BUS stopping after four of its steps. -/
theorem test_update_first_command : (after (exec .update { ready with device := .answers 4 })).wire =
    [.start, .addr 0x78, .data 0x80, .data 0xB0, .stop] := by decide
/-- V16a. -/
theorem test_clear : (after (exec .clear { State.reset with fb := [(3, 0xFF), (1023, 0x01)] })).fb = [] ∧
    (after (exec .clear State.reset)).idx = 1024 := by decide
/-- V21. -/
theorem test_decode_shortest_frame : (after (exec .decode (cursorAt [255, 1] 0))).fb =
    [(1020, 0xFF), (1021, 0xFF), (1022, 0xFF), (1023, 0xFF)] ∧ (after (exec .decode (cursorAt [255, 1] 0))).offset = 2 := by
  decide +kernel
/-- V37. -/
theorem test_decode_overrun : (after (exec .decode (cursorAt [255, 1, 1, 255] 1))).fb =
    [(4, 0xFF), (5, 0xFF), (6, 0xFF), (7, 0xFF)] ∧
    (after (exec .decode (cursorAt [255, 1, 1, 255] 1))).fault = some .overrun ∧
    (after (exec .decode (cursorAt [255, 1, 1, 255] 1))).offset = 4 := by decide +kernel
/-- V44: the example of 43_playback_scheduler.md R216. -/
theorem test_arm : (after (exec .arm ready)).status &&& 0x0F9F = 0x000A := by decide
/-- V49, at a tick that restarts the loop (V42): the frame is decoded, UPDATE hangs, the frame is not counted. -/
theorem test_tick_without_device :
    let t := after (exec .tick { armed with frame := 1, offset := 2, device := .answers 1 })
    t.wire = [.start, .addr 0x78] ∧ t.offset = 2 ∧ t.frame = 0 ∧ t.status &&& 0x0F9F = 0x081F := by decide +kernel
/-- V48. -/
theorem test_tick_before_init : (after (exec .tick { State.reset with tickEn := true })).fault = some .notInit ∧
    (after (exec .tick { State.reset with tickEn := true })).playing = false ∧
    (after (exec .tick { State.reset with tickEn := true })).tickPend = true := by decide
theorem test_addr_write : (after (exec (.addrWrite 0x3C) (at' [.txFirst, .stop] State.reset))).wire = [.addr 0x78] ∧
    (after (exec (.addrWrite 0x3C) (at' [.txFirst, .stop] State.reset))).seq = [.waitAddr, .txFirst, .stop] := by decide
theorem test_addr_read : exec (.addrRead 0x3C) ready = .refused .readTransfer := rfl
theorem test_ctrl_bytes :
    (after (exec .ctrlCmdSingle ready)).wire = [.data 0x80] ∧ (after (exec .ctrlCmdMulti ready)).wire = [.data 0x00] ∧
    (after (exec .ctrlDataSingle ready)).wire = [.data 0xC0] ∧ (after (exec .ctrlDataMulti ready)).wire = [.data 0x40] := by
  decide
/-- 41_display_driver.md R166, its lines for steps 3, 8 and 13 of R163. -/
theorem test_controller_commands :
    (after (exec (.dcSetPage 0) ready)).wire = [.start, .addr 0x78, .data 0x80, .data 0xB0, .stop] ∧
    (after (exec (.dcComPins 0 1) ready)).wire = [.start, .addr 0x78, .data 0x00, .data 0xDA, .data 0x12, .stop] ∧
    (after (exec (.dcPrecharge 2 2) ready)).wire = [.start, .addr 0x78, .data 0x00, .data 0xD9, .data 0x22, .stop] := by
  decide
/-- V8: a run byte of 8 is 32 bytes. -/
theorem test_run : (after (exec (.run 8) { State.reset with idx := 992, color := true })).idx = 1024 ∧
    (after (exec (.run 8) { State.reset with idx := 992, color := true })).fb.length = 32 := by decide
/-- V27: the run that does not fit. -/
theorem test_run_overrun : (after (exec (.run 2) { State.reset with idx := 1020, color := true })).fb = [] ∧
    (after (exec (.run 2) { State.reset with idx := 1020, color := true })).fault = some .overrun := by decide
/-- V12g. -/
theorem test_txlen_is_cut : (after (step (withLine (.write 4 0x0A) State.reset))).txlen = 2 := by decide
/-- V9, V10. -/
theorem test_registers : step (withLine (.read 2048) State.reset) = .refused (.reservedRegister 2048) ∧
    step (withLine (.write 2 0) State.reset) = .refused (.reservedRegister 2) ∧
    (after (step (withLine (.read 0) State.reset))).hostData = [0] := ⟨rfl, rfl, rfl⟩
/-- V2 through CMD. -/
theorem test_reserved_code_refused : step (withLine (.write 0 8) State.reset) = .refused (.reservedCode 8) := rfl
/-- The accepted tick is served by the next step. -/
theorem test_fetch_word_tick : step (State.reset.withFetchWord 1 1) = exec .tick (State.reset.withFetchWord 1 1) := rfl
/-- V45: STATUS before and after accept_tick, a step of its own. -/
theorem test_accept_tick : State.status { armed with tickPend := true } &&& 0x0F9F = 0x001A ∧
    (after (step { armed with tickPend := true })).status &&& 0x0F9F = 0x001B := by decide
/-- V45: lines of HOST between accept_tick and the first step of TICK, and after that step. -/
theorem test_status_read_after_accept_tick :
    (after (step (after (step { armed with tickPend := true, script := [⟨.after 1, .read 1⟩] })))).hostData = [0x001B] ∧
    (after (step (after (step { armed with tickPend := true, device := .answers 0, script := [⟨.after 2, .read 1⟩] })))).hostData =
      [0x001F] := by decide +kernel
/-- 41_display_driver.md R188: MODE decides whether a display data byte is stored at the pointers. -/
theorem test_panel_store : (Panel.gddram (Panel.store ⟨[], 3, 127, 2, true, .deaf, none⟩ 0x5A) 3 127 = some 0x5A) ∧
    (Panel.store ⟨[], 3, 127, 2, true, .deaf, none⟩ 0x5A).colPtr = 0 ∧
    (Panel.watch Config.standard ⟨[], 3, 127, 2, true, .deaf, none⟩
      [.start, .addr 0x78, .data 0x00, .data 0x20, .data 0x01, .stop]).mode = 1 := by decide

/-! ### Witnesses: for every statement with hypotheses, a state that meets them -/

theorem witness_EncodingUndoesDecoding : Format.dcmd16 ≠ .evt1 ∧
    decode Config.standard .dcmd16 [0xDB, 0x70, 0x01] = .ok (.dcVcomh 7) [0x01] := by decide
theorem witness_AddressingCommandBytes : Config.standard.wf = true ∧ 0 < displayW ∧ 127 < displayW := by decide
/-- One configuration for each way to fail. -/
theorem witness_IllFormedConfigIsRefused :
    (Config.srcW { Config.standard with srcW := 0 } = 0) ∧ displayW % 3 ≠ 0 ∧
    (Config.totalFrames { Config.standard with totalFrames := 0 } = 0) ∧ 2 ^ 32 ≤ 2 ^ 32 ∧
    2 ^ 32 ≤ (List.replicate (2 ^ 32) (0 : Byte)).length ∧ (0xB1#8).toNat % 8 ≠ 0 ∧ (0x08#8).toNat % 16 ≠ 0 ∧
    (0x11#8).toNat % 16 ≠ 0 ∧ (∃ t ∈ [([] : List Byte)], t.length = 0) ∧
    ∃ t ∈ [[(0 : Byte), 1, 2, 3, 4]], txbufMax < t.length := by
  refine ⟨rfl, by decide, rfl, by decide, ?_, by decide, by decide, by decide, by decide, by decide⟩
  exact Nat.le_of_eq List.length_replicate.symm

theorem reset_inv : State.reset.Inv := ⟨rfl, rfl, nofun, by decide, nofun, nofun⟩

theorem witness_StepKeepsTheInvariant : State.reset.Inv ∧ step State.reset = .next State.reset := ⟨reset_inv, rfl⟩
theorem witness_NothingIsTakenBack :
    step { armed with script := [⟨.quiet, .tick⟩] } = .next { armed with tickPend := true } := rfl
theorem witness_OnlyTheDeviceIsAddressed : ∃ t, step (at' [.addr, .stop] State.reset) = .next t ∧
    WireEvent.addr 0x78 ∈ t.wire.drop 0 := ⟨_, rfl, by decide⟩
/-- A state in which a verdict stands. -/
def stopped : State := { at' [.transact] State.reset with fault := some .txlen }
theorem stopped_inv : stopped.Inv := ⟨rfl, rfl, fun _ => rfl, by decide, nofun, nofun⟩
theorem witness_AVerdictStopsTheEngine : stopped.Inv ∧ stopped.fault ≠ none ∧ step stopped = .next stopped :=
  ⟨stopped_inv, by decide, rfl⟩
/-- At H_START with a bus that is never granted. -/
def hung (w : Work) : State := { at' [w, .stop] State.reset with device := .answers 0, startReq := true }
theorem hung_inv (w : Work) : (hung w).Inv := ⟨rfl, rfl, nofun, Nat.zero_le _, nofun, nofun⟩
/-- The three holds. -/
theorem witness_AHoldIsLeftOnlyByBus : ((hung .waitStart).atHold = true ∧ (hung .waitStart).busReady = false ∧
      step (hung .waitStart) = .next (hung .waitStart)) ∧
    ((hung .waitAddr).atHold = true ∧ (hung .waitAddr).busReady = false) ∧
    ((hung .waitBtc).atHold = true ∧ (hung .waitBtc).busReady = false) :=
  ⟨⟨rfl, rfl, rfl⟩, ⟨rfl, rfl⟩, ⟨rfl, rfl⟩⟩
theorem witness_AfterArmHostChangesNothing : armed.cfg.wf = true ∧ armed.tickEn = true ∧
    State.lineLands { armed with script := [⟨.after 0, .tick⟩] } = true ∧
    step { armed with script := [⟨.after 0, .tick⟩] } = .next { armed with tickPend := true } ∧
    State.lineLands (withLine (.read 1) armed) = true ∧ State.lineLands { armed with script := [⟨.after 3, .tick⟩] } = true ∧
    step { armed with script := [⟨.after 3, .tick⟩] } = .next { armed with tickPend := true } :=
  ⟨by decide, rfl, rfl, rfl, rfl, rfl, rfl⟩

theorem reset_idle : State.reset.Idle := ⟨rfl, rfl, rfl, rfl⟩
theorem reset_clear : State.reset.Clear := ⟨rfl, rfl, rfl, rfl⟩
theorem ready_idle : ready.Idle := ⟨rfl, rfl, rfl, rfl⟩
theorem ready_clear : ready.Clear := ⟨rfl, rfl, rfl, rfl⟩

theorem witness_StepRunsTheHostOperation : State.reset.cfg.wf = true ∧ (withLine (.write 0 7) State.reset).Idle ∧
    (withLine (.write 0 7) State.reset).busReady = false ∧
    decode Config.standard .hostop8 [(7#32).setWidth 8] = .ok .arm [] := ⟨by decide, ⟨rfl, rfl, rfl, rfl⟩, rfl, by decide⟩
/-- The codes 0, 8 and 255. -/
theorem witness_StepRefusesAReservedCode : (withLine (.write 0 ((0x08 : Byte).setWidth 32)) State.reset).Idle ∧
    (withLine (.write 0 ((0x08 : Byte).setWidth 32)) State.reset).busReady = false ∧ (0x00 : Byte) = 0x00 ∧
    0x08 ≤ (0x08 : Byte).toNat ∧ 0x08 ≤ (0xFF : Byte).toNat := ⟨⟨rfl, rfl, rfl, rfl⟩, rfl, by decide⟩
/-- Each of the seven points. -/
theorem witness_StepRunsTheFetchedInstruction : (at' [.addr, .stop] State.reset).lineDue = false ∧
    (at' [.addr, .stop] State.reset).fault = none ∧ State.reset.cfg.wf = true ∧
    (at' [.addr, .stop] State.reset).seq = .addr :: [.stop] ∧ (at' [.pageCtrl, .stop] ready).seq = .pageCtrl :: [.stop] ∧
    (decode Config.standard .ctrl8 [(loaded .present 2 ⟨0x80, 0xAF, 0, 0⟩).txbuf.b0] = .ok .ctrlCmdSingle [] ∧
      (loaded .present 2 ⟨0x80, 0xAF, 0, 0⟩).txptr = 0 ∧ (loaded .present 2 ⟨0x80, 0xAF, 0, 0⟩).txlen ≠ 0) ∧
    (7#4).toNat < pageCount ∧
    Config.standard.initSeq[0]? = some (Config.standard.ctrlCmdSingle :: encode Config.standard .dcDisplayOff) ∧
    Config.standard.initSeq[1]? = some (Config.standard.ctrlCmdMulti :: encode Config.standard (.dcAddrMode 2)) := by decide
theorem witness_StepRunsTheStreamByteAtOffset : (at' [.decodeLoop] (cursorAt [255, 1] 1)).undisturbed = true ∧
    (at' [.decodeLoop] (cursorAt [255, 1] 1)).cfg.wf = true ∧
    (at' [.decodeLoop] (cursorAt [255, 1] 1)).idx.toNat < fbSize ∧
    (at' [.decodeLoop] (cursorAt [255, 1] 1)).cfg.stream[1]? = some 1 ∧
    decode Config.standard .rle8 [1] = .ok (.run 1) [] := by decide
/-- Accepted; and not accepted with no line left. -/
theorem witness_StepAcceptsAPendingTick : armed.cfg.wf = true ∧
    State.engineReady { armed with tickPend := true } = false ∧ State.busReady { armed with tickPend := true } = false ∧
    State.undisturbed { armed with tickPend := true } = true ∧
    (armed.busy = false ∧ armed.tickEn = true ∧ armed.fault = none) ∧ armed.tickPend = false ∧ armed.script = [] := by decide
theorem witness_ARegisterReadsBack : State.reset.fb.wf = true ∧ 1024 ≤ 2047 ∧ 2047 < 2048 := by decide
/-- A write and a read at the last byte of the window, whatever the moment. -/
theorem witness_HostAccessesReachTheState : State.reset.cfg.wf = true ∧ (withLine (.write 2047 0xFF) State.reset).Idle ∧
    (withLine (.write 2047 0xFF) State.reset).busReady = false ∧ 1023 < fbSize ∧
    step { State.reset with script := [⟨.after 5, .write 2047 0xFF⟩] } = .next { State.reset with fb := [(1023, 0xFF)] } ∧
    step { ready with fb := [(1023, 0xFF)], script := [⟨.quiet, .read 2047⟩] } =
      .next { ready with fb := [(1023, 0xFF)], hostData := [0xFF] } :=
  ⟨by decide, ⟨rfl, rfl, rfl, rfl⟩, rfl, by decide, rfl, rfl⟩
/-- The bounds of the reserved ranges. -/
theorem witness_ReservedRegistersAreRefused : (withLine (.read 2) State.reset).Idle ∧
    (withLine (.read 2) State.reset).busReady = false ∧
    [2, 11, 1023, 2048, 65535].all (fun r => r = 2 ∨ 11 ≤ r ∧ r ≤ 1023 ∨ 2048 ≤ r) = true :=
  ⟨⟨rfl, rfl, rfl, rfl⟩, rfl, by decide⟩
theorem witness_HostMayOnlyReadStatus : armed.cfg.wf = true ∧ armed.tickEn = true ∧ armed.busy = false ∧
    State.lineLands (withLine (.write 0 3) armed) = true ∧ stopped.cfg.wf = true ∧ stopped.busy = true ∧
    State.lineLands { stopped with script := [⟨.after 0, .read 2⟩] } = true ∧ State.lineLands (withLine (.read 1) stopped) = true ∧
    (0 : Nat) ≠ 1 ∧ (2 : Nat) ≠ 1 := by decide
theorem witness_NoHostOperationStarts : armed.tickEn = true ∧ stopped.busy = true := by decide
theorem witness_AByteOfFb : Memory.wf [(0, 0xFF), (1023, 0x01)] = true ∧ 0 < fbSize ∧ 1023 < fbSize := by decide
/-- Each of the three steps of BUS. -/
theorem witness_BusLiftsTheHolds :
    ((at' [.waitStart] State.reset).undisturbed = true ∧ (at' [.waitStart] State.reset).engineReady = false ∧
      State.startReq { at' [.waitStart] State.reset with startReq := true } = true ∧
      (at' [.waitStart] State.reset).await = .none) ∧
    ((at' [.waitAddr] State.reset).engineReady = false ∧
      State.await { at' [.waitAddr] State.reset with await := .addr, inXact := true } = .addr) ∧
    ((at' [.waitBtc] State.reset).engineReady = false ∧
      State.await { at' [.waitBtc] State.reset with await := .byte, inXact := true } = .byte) := by decide
theorem witness_TheEngineGoesOn : State.reset.cfg.wf = true ∧ State.reset.undisturbed = true ∧
    (at' [.start, .addr] State.reset).seq = .start :: .addr :: [] ∧
    State.fStart { at' [.waitStart, .addr] State.reset with fStart := true } = true ∧
    State.fAddr { at' [.waitAddr, .pageCtrl] State.reset with fAddr := true } = true ∧
    State.fBtc { at' [.waitBtc, .txNext] State.reset with fBtc := true } = true ∧
    (at' [.stop, .initNext] State.reset).seq = .stop :: .initNext :: [] := by decide
theorem witness_FaultFree : State.reset.fault = none ∧ (0x3D : BitVec 7) ≠ State.reset.cfg.devAddr := by decide
/-- The least and the greatest length. -/
theorem witness_TransactSendsItsBuffer : (loaded .present 1 ⟨0x80, 0, 0, 0⟩).Idle ∧ (loaded .present 4 ⟨0, 1, 2, 3⟩).Clear ∧
    1 ≤ (1#3).toNat ∧ (4#3).toNat ≤ txbufMax := ⟨⟨rfl, rfl, rfl, rfl⟩, ⟨rfl, rfl, rfl, rfl⟩, by decide, by decide⟩
/-- The lengths 0, 5 and 7. -/
theorem witness_TransactOfIllegalLength : State.reset.busQuiet = true ∧ State.reset.undisturbed = true ∧
    (State.reset.txlen = 0) ∧ txbufMax < (5#3).toNat ∧ txbufMax < (7#3).toNat := by decide
/-- BUS that never grants, and BUS that takes all but the last step. -/
theorem witness_TransactHangs : (loaded (.answers 0) 1 ⟨0x80, 0, 0, 0⟩).Idle ∧
    (loaded (.answers 5) 4 ⟨0, 1, 2, 3⟩).busQuiet = true ∧ 0 < 2 + (1#3).toNat ∧ 5 < 2 + (4#3).toNat ∧
    1 ≤ (1#3).toNat ∧ (4#3).toNat ≤ txbufMax := ⟨⟨rfl, rfl, rfl, rfl⟩, by decide, by decide, by decide, by decide, by decide⟩
/-- On an idle block, and inside an INIT. -/
theorem witness_AControllerCommand : ready.Clear ∧ (at' [.initNext] ready).Clear ∧ ready.busy = !ready.seq.isEmpty ∧
    (at' [.initNext] ready).busy = !(at' [.initNext] ready).seq.isEmpty ∧ (Instr.dcNormal).format = .dcmd8 ∧
    (Instr.dcContrast 0).format = .dcmd16 := ⟨⟨rfl, rfl, rfl, rfl⟩, ⟨rfl, rfl, rfl, rfl⟩, rfl, rfl, rfl, rfl⟩
theorem witness_StreamPageAndUpdate : ready.Idle ∧ ready.Clear ∧ ready.initDone = true := ⟨ready_idle, ready_clear, rfl⟩
/-- The default parameters, and a device in page addressing mode. -/
theorem witness_UpdateMirrorsFbOnThePanel : ready.cfg.wf = true ∧ ready.cfg.cmdSetPage ≠ ready.cfg.cmdColLo ∧
    ready.cfg.cmdSetPage ≠ ready.cfg.cmdColHi ∧ ready.cfg.cmdColLo ≠ ready.cfg.cmdColHi ∧
    ready.cfg.ctrlDataMulti ∉ [ready.cfg.ctrlCmdSingle, ready.cfg.ctrlCmdMulti, ready.cfg.ctrlDataSingle] ∧
    Panel.mode ⟨[], 0, 0, 2, true, .deaf, none⟩ = pageMode := by decide
theorem witness_PageOperationsBeforeInit : State.reset.Idle ∧ State.reset.undisturbed = true ∧ State.reset.busQuiet = true ∧
    State.reset.initDone = false := ⟨reset_idle, rfl, rfl, rfl⟩
theorem witness_Init : State.reset.cfg.wf = true ∧ State.reset.cfg = Config.standard ∧ State.reset.Idle ∧
    State.reset.Clear ∧ State.reset.initDone = false := ⟨by decide, rfl, reset_idle, reset_clear, rfl⟩
theorem witness_ASecondInit : ready.Idle ∧ ready.undisturbed = true ∧ ready.busQuiet = true ∧ ready.initDone = true :=
  ⟨ready_idle, rfl, rfl, rfl⟩
theorem witness_ClearAndArm : State.reset.Idle ∧ State.reset.undisturbed = true := ⟨reset_idle, rfl⟩
/-- Frames at the start and behind the start of a stream. -/
theorem witness_DecodeDrawsOneFrame : (cursorAt [255, 1, 0, 255, 0, 1] 2).cfg.wf = true ∧
    (cursorAt [255, 1, 0, 255, 0, 1] 2).Idle ∧ (cursorAt [255, 1, 0, 255, 0, 1] 2).undisturbed = true ∧
    frameAt (withStream [255, 1, 0, 255, 0, 1] 1) 0 [255, 1] ∧
    frameAt (withStream [255, 1, 0, 255, 0, 1] 1) 2 [0, 255, 0, 1] := by
  refine ⟨by decide, ⟨rfl, rfl, rfl, rfl⟩, rfl, ?_, ?_⟩ <;> (unfold frameAt runsAt; decide)
/-- The last byte of an odd run and the first of an even one. -/
theorem witness_RunsAlternate : frameAt (withStream [0, 255, 0, 1] 1) 0 [0, 255, 0, 1] ∧ [(0 : Byte), 255, 0, 1][1]? = some 255 ∧
    runsTotal 4 [0] ≤ 1019 ∧ 1019 < runsTotal 4 [0] + 255 * 4 ∧ [(255 : Byte), 1][0]? = some 255 ∧
    frameAt (withStream [255, 1] 1) 0 [255, 1] ∧ 0 < runsTotal 4 [] + 255 * 4 := by
  refine ⟨?_, by decide, by decide, by decide, by decide, ?_, by decide⟩ <;> (unfold frameAt runsAt; decide)
/-- A run that passes the end by one pixel, and one that is the first run read. -/
theorem witness_DecodeOverrun : (cursorAt [255, 2] 0).cfg.wf = true ∧ (cursorAt [255, 2] 0).Idle ∧
    (cursorAt [255, 2] 0).busQuiet = true ∧ runsAt (withStream [255, 2] 1) 0 ([255] ++ [2]) ∧
    fbSize < runsTotal (withStream [255, 2] 1).pixelScale ([255] ++ [2]) := by
  refine ⟨by decide, ⟨rfl, rfl, rfl, rfl⟩, rfl, ?_, by decide⟩; unfold runsAt; decide
/-- A stream that ends inside a frame, and a cursor at its end. -/
theorem witness_DecodePastTheStream : (cursorAt [255] 0).cfg.wf = true ∧ (cursorAt [255] 0).Idle ∧
    (cursorAt [255] 0).busQuiet = true ∧ (withStream [255] 1).stream.drop 0 = [255] ∧
    (withStream [255] 1).stream.drop 1 = [] ∧ runsTotal (withStream [255] 1).pixelScale [255] < fbSize ∧
    runsTotal (withStream [255] 1).pixelScale [] < fbSize := by
  refine ⟨by decide, ⟨rfl, rfl, rfl, rfl⟩, rfl, rfl, rfl, by decide, by decide⟩
/-- Two states that differ in FB, COLOR, FRAME and the bus. -/
theorem witness_DecodeDependsOnTheCursorAlone :
    (cursorAt [255] 0).Idle ∧ (cursorAt [255] 0).cfg.wf = true ∧
    State.Idle { cursorAt [255] 0 with fb := [(0, 0xFF)], color := true, frame := 5, inXact := true } ∧
    (∃ t, exec .decode (cursorAt [255] 0) = .next t) ∧
    ∃ t, exec .decode { cursorAt [255] 0 with fb := [(0, 0xFF)], color := true, frame := 5, inXact := true } = .next t := by
  exact ⟨⟨rfl, rfl, rfl, rfl⟩, by decide, ⟨rfl, rfl, rfl, rfl⟩, ⟨_, rfl⟩, ⟨_, rfl⟩⟩
/-- A run that just fits, one that just does not, and a run of 0 at the end of FB. -/
theorem witness_Runs : State.reset.fault = none ∧ State.reset.fb.wf = true ∧
    (1020#11).toNat + (1#8).toNat * Config.standard.pixelScale ≤ fbSize ∧
    fbSize < (1020#11).toNat + (2#8).toNat * Config.standard.pixelScale ∧ (1024#11).toNat ≤ fbSize := by decide
theorem witness_ATickIsIgnored : State.reset.seq ≠ [.tick] ∧ State.reset.tickEn = false ∧ stopped.seq ≠ [.tick] ∧
    State.tickEn { stopped with tickEn := true } = true ∧ State.busy { stopped with tickEn := true } = true ∧
    State.reset.cfg.wf = true ∧ State.lineLands (withLine .tick State.reset) = true ∧ armed.cfg.wf = true ∧
    armed.tickEn = true ∧ State.lineLands { armed with script := [⟨.after 2, .tick⟩] } = true := by decide

theorem armed_clear : armed.Clear := ⟨rfl, rfl, rfl, rfl⟩
/-- Without and with the loop restart. -/
theorem witness_TickPlaysOneFrame : armed.cfg.wf = true ∧ armed.seq = [] ∧ armed.busy = false ∧ armed.tickEn = true ∧
    armed.Clear ∧ armed.initDone = true ∧ armed.frame.toNat ≠ armed.cfg.totalFrames ∧
    (1#32).toNat = armed.cfg.totalFrames ∧ frameAt armed.cfg 0 [255, 1] := by
  refine ⟨by decide, rfl, rfl, rfl, armed_clear, rfl, by decide, rfl, ?_⟩; unfold frameAt runsAt; decide
theorem witness_ATickBeforeInit : State.tickEn { State.reset with tickEn := true } = true ∧
    State.busQuiet { State.reset with tickEn := true } = true ∧ State.initDone { State.reset with tickEn := true } = false := by
  decide
theorem witness_OnlyAnEventAfterTheClearingStep : (at' [.tickCount, .tickClear, .tickBeat] armed).undisturbed = true ∧
    (at' [.tickClear, .tickBeat] armed).tickEn = true ∧ (at' [.tickBeat] armed).fault = none ∧ armed.cfg.wf = true := by decide
/-- K4 with two frames: the first, the last and the end. -/
theorem witness_TheLoopRestarts : (withStream [255, 1, 0, 255, 0, 1] 2).wf = true ∧
    (withStream [255, 1, 0, 255, 0, 1] 2).streamOk = true ∧
    (withStream [255, 1, 0, 255, 0, 1] 2).frameStart 0 = some 0 ∧ (withStream [255, 1, 0, 255, 0, 1] 2).frameStart 1 = some 2 ∧
    (withStream [255, 1, 0, 255, 0, 1] 2).frameStart 2 = some 6 := by decide
theorem witness_Playback : armed.cfg.wf = true ∧ armed.cfg.streamOk = true ∧ armed.seq = [] ∧ armed.busy = false ∧
    armed.tickEn = true ∧ armed.Clear ∧ armed.initDone = true ∧ armed.frame = 0 ∧ armed.offset = 0 ∧
    armed.frame.toNat ≤ armed.cfg.totalFrames ∧ armed.cfg.frameStart armed.frame.toNat = some armed.offset.toNat :=
  ⟨by decide, by decide, rfl, rfl, rfl, armed_clear, rfl, rfl, rfl, by decide, by decide⟩

end Sys2Proof.Tests
end

section
/-! What the scope says of every step (00_scope.md R8, R13, R15): the configuration check as arithmetic on the parameters, and a
step that takes nothing back. -/

namespace Sys2Proof

/-! ### The configuration check -/

/-- A width that divides DISPLAY_W leaves PIXEL_SCALE at least 1, so that K2 needs no third clause. -/
theorem Config.scaleOk_iff (c : Config) : c.scaleOk = true ↔ c.srcW ≠ 0 ∧ displayW % c.srcW = 0 := by
  simp only [Config.scaleOk, Bool.and_eq_true, decide_eq_true_eq, beq_iff_eq, Nat.one_le_iff_ne_zero (n := c.srcW)]
  refine ⟨And.left, fun h => ⟨h, ?_⟩⟩
  obtain ⟨hne, hdvd⟩ := h
  exact Nat.div_pos (Nat.le_of_dvd (by decide) (Nat.dvd_of_mod_eq_zero hdvd)) (Nat.pos_of_ne_zero hne)

theorem Config.countsOk_iff (c : Config) :
    c.countsOk = true ↔ c.totalFrames ≠ 0 ∧ c.totalFrames < 2 ^ 32 ∧ c.stream.length < 2 ^ 32 := by
  simp only [Config.countsOk, Bool.and_eq_true, decide_eq_true_eq, Nat.one_le_iff_ne_zero, and_assoc]
  rfl

/-- A byte's low `k` bits are zero exactly when it is a multiple of `2 ^ k`. -/
theorem byte_and_low_eq_zero_iff (b : Byte) {k : Nat} (hk : k ≤ 8) :
    b &&& BitVec.ofNat 8 (2 ^ k - 1) = 0#8 ↔ b.toNat % 2 ^ k = 0 := by
  have hmask : 2 ^ k - 1 < 2 ^ 8 := by
    have := Nat.pow_le_pow_right (n := 2) (by decide) hk
    omega
  rw [← BitVec.toNat_inj, BitVec.toNat_and, BitVec.toNat_ofNat, Nat.mod_eq_of_lt hmask, Nat.and_two_pow_sub_one_eq_mod]
  rfl

theorem Config.bytesOk_iff (c : Config) :
    c.bytesOk = true ↔ c.cmdSetPage.toNat % 8 = 0 ∧ c.cmdColLo.toNat % 16 = 0 ∧ c.cmdColHi.toNat % 16 = 0 ∧
      ∀ t ∈ c.initSeq, t.length ≠ 0 ∧ t.length ≤ txbufMax := by
  have low3 (b : Byte) : b &&& 0x07#8 = 0x00#8 ↔ b.toNat % 8 = 0 := byte_and_low_eq_zero_iff b (k := 3) (by decide)
  have low4 (b : Byte) : b &&& 0x0F#8 = 0x00#8 ↔ b.toNat % 16 = 0 := byte_and_low_eq_zero_iff b (k := 4) (by decide)
  simp only [Config.bytesOk, Bool.and_eq_true, beq_iff_eq, List.all_eq_true, decide_eq_true_eq, low3, low4,
    Nat.one_le_iff_ne_zero, and_assoc]

/-- The configuration check as what K2, K3 and K5 say of the parameters (00_scope.md R8); K1 holds of every configuration. -/
theorem Config.wf_iff (c : Config) :
    c.wf = true ↔ (c.srcW ≠ 0 ∧ displayW % c.srcW = 0) ∧
      (c.totalFrames ≠ 0 ∧ c.totalFrames < 2 ^ 32 ∧ c.stream.length < 2 ^ 32) ∧
      c.cmdSetPage.toNat % 8 = 0 ∧ c.cmdColLo.toNat % 16 = 0 ∧ c.cmdColHi.toNat % 16 = 0 ∧
      ∀ t ∈ c.initSeq, t.length ≠ 0 ∧ t.length ≤ txbufMax := by
  have geometry : geometryOk = true := rfl
  rw [Config.wf, geometry, Bool.true_and, Bool.and_eq_true, Bool.and_eq_true, c.scaleOk_iff, c.countsOk_iff, c.bytesOk_iff,
    and_assoc]

end Sys2Proof

namespace Sys2Proof.Machine

theorem step_of_not_wf {s : State} (h : s.cfg.wf = false) : step s = .refused .illFormedConfig := by
  simp [step, turn, h]

/-- Settles O8: each way to fail K2, K3 or K5 contradicts the clause of the check it denies (`Config.wf_iff`). -/
theorem illFormedConfigIsRefused : Obligations.IllFormedConfigIsRefused := by
  intro s bad
  refine step_of_not_wf (Bool.eq_false_iff.mpr fun hwf => ?_)
  obtain ⟨⟨hsrc, hdiv⟩, ⟨hframes, hmax, hlen⟩, hpage, hlo, hhi, hseq⟩ := (Config.wf_iff _).mp hwf
  rcases bad with h | h | h | h | h | h | h | h | ⟨t, ht, h⟩
  · exact hsrc h
  · exact h hdiv
  · exact hframes h
  · omega
  · omega
  · exact h hpage
  · exact h hlo
  · exact h hhi
  · obtain ⟨hne, hle⟩ := hseq t ht
    omega

/-! ### What no step takes back

`Grows` for the meanings of the instructions, for a line that lands and for the step, on top of `drive_grows`. -/

/-- The fields of which `Grows` speaks. -/
def State.lasting (s : State) :
    Config × List WireEvent × List Word × Bool × Bool × Bool × Option FaultCode :=
  (s.cfg, s.wire, s.hostData, s.initDone, s.tickEn, s.playing, s.fault)

/-- A move that touches none of these fields takes nothing back. -/
theorem Grows.of_lasting_eq {s t : State} (h : t.lasting = s.lasting) : Grows s t := by
  simp only [State.lasting, Prod.mk.injEq] at h
  obtain ⟨hcfg, hwire, hhost, hinit, htick, hplay, hfault⟩ := h
  exact ⟨hcfg, hwire ▸ List.prefix_refl _, hhost ▸ List.prefix_refl _, hinit.trans, htick.trans, hplay.trans,
    fun _ => hfault.trans⟩

/-- A move may begin by touching other fields alone. -/
theorem Grows.of_start_eq {s s' t : State} (g : Grows s' t) (h : s'.lasting = s.lasting) : Grows s t :=
  (Grows.of_lasting_eq h).trans g

theorem busAddr_grows (k : List Work) (s : State) : Grows s (busAddr k s) :=
  ⟨rfl, List.prefix_append _ _, List.prefix_refl _, id, id, id, fun _ => id⟩

theorem busByte_grows (b : Byte) (k : List Work) (s : State) : Grows s (busByte b k s) :=
  ⟨rfl, List.prefix_append _ _, List.prefix_refl _, id, id, id, fun _ => id⟩

theorem acceptTick_grows (s : State) : Grows s (acceptTick s) :=
  (countdown_grows s).trans (.of_lasting_eq rfl)

theorem enter_grows (s : State) : Grows s (enter s) := by
  unfold enter
  split <;> exact .of_lasting_eq rfl

theorem writeReg_grows {reg : Nat} {v : Word} {s t : State} (h : writeReg s reg v = some t) : Grows s t := by
  unfold writeReg at h
  split at h
  case h_10 =>
    split at h
    · cases h; exact .of_lasting_eq rfl
    · cases h
  all_goals cases h; exact .of_lasting_eq rfl

/-- With a verdict standing nothing runs, so only what runs without one needs an argument. -/
theorem whenRunning_grows {s t : State} {o : Host.Outcome State Fault Refusal} (h : whenRunning s o = .next t)
    (run : o = .next t → Grows s t) : Grows s t := by
  unfold whenRunning at h
  split at h
  · exact run h
  · cases h; exact Grows.refl s

theorem runOp_grows {w : Work} {s t : State} (h : runOp w s = .next t) : Grows s t :=
  (drive_grows h).of_start_eq rfl

theorem hostOp_grows {w : Work} {s t : State} (h : hostOp w s = .next t) : Grows s t := by
  unfold hostOp at h
  split at h
  · exact runOp_grows h
  · cases h

theorem execStreamPage_grows {s t : State} (h : execStreamPage s = .next t) : Grows s t := by
  unfold execStreamPage at h
  split at h
  · exact (runOp_grows h).of_start_eq rfl
  · cases h

theorem execTick_grows {s t : State} (h : execTick s = .next t) : Grows s t := by
  unfold execTick at h
  refine (tickIn_grows s).trans ?_
  split at h
  · exact (acceptTick_grows _).trans (drive_grows h)
  · split at h
    · exact drive_grows h
    · cases h; exact Grows.refl _

theorem execAddrWrite_grows {a : BitVec 7} {s t : State} (h : execAddrWrite a s = .next t) : Grows s t := by
  unfold execAddrWrite at h
  split at h
  · exact whenRunning_grows h fun ho => by cases ho; exact busAddr_grows _ _
  · cases h

theorem sendControl_grows {b : Byte} {s t : State} (h : sendControl b s = .next t) : Grows s t :=
  whenRunning_grows h fun ho => by cases ho; exact busByte_grows _ _ _

theorem sendCommand_grows {payload : List Byte} {s t : State} (h : sendCommand payload s = .next t) : Grows s t :=
  whenRunning_grows h fun ho => (drive_grows ho).of_start_eq rfl

/-- No instruction takes anything back. -/
theorem exec_grows {i : Instr} {s t : State} (h : exec i s = .next t) : Grows s t := by
  cases i with
  | clear | decode | update | init | transact | arm => exact hostOp_grows h
  | streamPage => exact execStreamPage_grows h
  | tick => exact execTick_grows h
  | addrWrite => exact execAddrWrite_grows h
  | addrRead => cases h
  | ctrlCmdSingle | ctrlCmdMulti | ctrlDataSingle | ctrlDataMulti => exact sendControl_grows h
  | dcSetPage | dcColLo | dcColHi | dcDisplayOff | dcAddrMode | dcMuxRatio | dcDisplayOffset | dcSegRemap | dcComScan
  | dcComPins | dcContrast | dcDisplayRam | dcNormal | dcOsc | dcPrecharge | dcVcomh | dcChargePump | dcDisplayOn =>
    exact sendCommand_grows h
  | run => exact whenRunning_grows h fun ho => by cases ho; exact decodeRun_grows _ _

theorem hostWrite_grows {reg : Nat} {v : Word} {s t : State} (h : hostWrite exec reg v s = .next t) : Grows s t := by
  unfold hostWrite at h
  split at h
  · cases h
  · split at h
    · split at h
      · exact exec_grows h
      · cases h
    · split at h
      case h_1 hw => cases h; exact writeReg_grows hw
      case h_2 => cases h

theorem landLine_grows {s t : State} (h : landLine exec s = .next t) : Grows s t := by
  unfold landLine at h
  split at h
  · cases h; exact Grows.refl s
  · cases h; exact .of_lasting_eq rfl
  · exact (hostRead_grows h).of_start_eq rfl
  · exact (hostWrite_grows h).of_start_eq rfl

theorem quietLine_grows {s t : State} (h : quietLine exec s = .next t) : Grows s t := by
  unfold quietLine at h
  split at h
  · cases h; exact Grows.refl s
  · split at h
    · cases h; exact Grows.refl s
    · exact landLine_grows h

theorem operationTurn_grows {s t : State} (h : operationTurn exec s = .next t) : Grows s t := by
  unfold operationTurn at h
  split at h
  · exact exec_grows h
  · exact ((countdown_grows s).trans (enter_grows _)).trans (exec_grows h)
  · exact (countdown_grows s).trans (engine_grows h)

/-- The step takes nothing back, whichever of the agents moves. -/
theorem step_grows {s t : State} (h : step s = .next t) : Grows s t := by
  unfold step turn at h
  split at h
  · cases h
  · split at h
    · exact landLine_grows h
    · split at h
      · exact operationTurn_grows h
      · split at h
        · cases h; exact (countdown_grows s).trans (busStep_grows _)
        · split at h
          · cases h; exact acceptTick_grows s
          · exact quietLine_grows h

/-- Settles O10: it is `Grows` of the two states, without the part about HOST's data. -/
theorem nothingIsTakenBack : Obligations.NothingIsTakenBack := fun s t h =>
  have g : Grows s t := step_grows h
  ⟨g.cfg, g.wire, g.tickEn, g.playing, g.initDone, g.fault⟩

end Sys2Proof.Machine
end

section
/-! The invariant of the machine (`State.Inv`) through the meanings of the instructions, a line that lands and the step, on top of
`drive_inv` and the lemmas of single moves. Inside an operation a fetched instruction runs on a state whose SEQ is already past the
instruction's point (`enter`), where BUSY need not agree with SEQ; `State.Sound` is what is left of the invariant there. -/

namespace Sys2Proof.Machine

/-! ### Reset -/

/-- Settles O6: R50's values are the ones State.reset is built of. -/
theorem resetLeavesTheValuesTheSpecGives : Obligations.ResetLeavesTheValuesTheSpecGives := by
  unfold Obligations.ResetLeavesTheValuesTheSpecGives
  simp [State.reset, State.quiescent]

/-- FB is empty and every flag is clear. -/
theorem State.Inv.reset : State.reset.Inv where
  fb := Memory.wf_nil
  busy := rfl
  fault := fun h => absurd rfl h
  idx := Nat.zero_le _
  pend := nofun
  playing := nofun

/-- Settles O7: the configuration check is evaluated on the default parameters. -/
theorem resetMeetsTheInvariant : Obligations.ResetMeetsTheInvariant := ⟨State.Inv.reset, by decide⟩

/-! ### What is left of the invariant where an instruction is entered -/

/-- No verdict stands and, SEQ and BUSY aside, the invariant holds. -/
structure State.Sound (s : State) : Prop where
  noFault : s.fault = none
  fb : s.fb.wf = true
  idx : s.idx.toNat ≤ fbSize
  pend : s.tickPend = true → s.tickEn = true
  playing : s.playing = true → s.initDone = true

theorem State.Inv.sound {s : State} (h : s.Inv) (hf : s.fault = none) : s.Sound :=
  ⟨hf, h.fb, h.idx, h.pend, h.playing⟩

/-- HOST may only where BUSY = 0, and there no verdict stands. -/
theorem State.Inv.sound_of_hostMay {s : State} (h : s.Inv) (hm : s.hostMay = true) : s.Sound := by
  refine h.sound (Decidable.byContradiction fun hf => ?_)
  simp [State.hostMay, h.fault hf] at hm

/-- The invariant from its parts, BUSY agreeing with SEQ. -/
theorem State.Sound.inv {s : State} (h : s.Sound) (hb : s.busy = !s.seq.isEmpty) : s.Inv :=
  ⟨h.fb, hb, fun hf => absurd h.noFault hf, h.idx, h.pend, h.playing⟩

theorem State.Sound.enter {s : State} (h : s.Sound) : (enter s).Sound := by
  obtain ⟨noFault, fb, idx, pend, playing⟩ := h
  unfold Machine.enter
  split <;> exact ⟨noFault, fb, idx, pend, playing⟩

theorem engineReady_fault {s : State} (h : s.engineReady = true) : s.fault = none := by
  simp only [State.engineReady, Bool.and_eq_true, Option.isNone_iff_eq_none] at h
  exact h.1

theorem countdown_fault (s : State) : (countdown s).fault = s.fault := by
  unfold countdown
  split <;> rfl

/-! ### The instructions -/

theorem whenRunning_of_noFault {s : State} (h : s.fault = none) (o : Host.Outcome State Fault Refusal) :
    whenRunning s o = o := by
  simp [whenRunning, h]

theorem begin_inv {w : Work} {s : State} (h : s.Sound) : (begin w s).Inv :=
  State.Sound.inv ⟨h.noFault, h.fb, h.idx, h.pend, h.playing⟩ rfl

theorem busAddr_inv {k : List Work} {s : State} (h : s.Sound) : (busAddr k s).Inv :=
  State.Sound.inv ⟨h.noFault, h.fb, h.idx, h.pend, h.playing⟩ rfl

theorem busByte_inv {b : Byte} {k : List Work} {s : State} (h : s.Sound) : (busByte b k s).Inv :=
  State.Sound.inv ⟨h.noFault, h.fb, h.idx, h.pend, h.playing⟩ rfl

theorem callTransact_loadTx_inv {bytes : List Byte} {k : List Work} {s : State} (h : s.Sound) :
    (callTransact k (loadTx bytes s)).Inv :=
  State.Sound.inv ⟨h.noFault, h.fb, h.idx, h.pend, h.playing⟩ rfl

theorem runOp_inv {w : Work} {s t : State} (h : s.Sound) (hr : runOp w s = .next t) : t.Inv :=
  drive_inv (begin_inv h) hr

theorem hostOp_inv {w : Work} {s t : State} (h : s.Sound) (ho : hostOp w s = .next t) : t.Inv := by
  unfold hostOp at ho
  split at ho
  · exact runOp_inv h ho
  · cases ho

theorem execStreamPage_inv {s t : State} (h : s.Sound) (he : execStreamPage s = .next t) : t.Inv := by
  unfold execStreamPage at he
  split at he
  · exact runOp_inv (s := { s with page := s.argPage.setWidth 4 }) ⟨h.noFault, h.fb, h.idx, h.pend, h.playing⟩ he
  · cases he

theorem execTick_inv {s t : State} (h : s.Inv) (he : execTick s = .next t) : t.Inv := by
  have hin : (tickIn s).Inv := tickIn_inv h
  unfold execTick at he
  split at he
  · rename_i ha
    exact drive_inv (acceptTick_inv hin ha) he
  · split at he
    · exact drive_inv hin he
    · cases he
      exact hin

theorem execAddrWrite_inv {a : BitVec 7} {s t : State} (h : s.Sound) (he : execAddrWrite a s = .next t) : t.Inv := by
  unfold execAddrWrite at he
  rw [whenRunning_of_noFault h.noFault] at he
  split at he
  · cases he
    exact busAddr_inv h
  · cases he

theorem sendControl_inv {b : Byte} {s t : State} (h : s.Sound) (he : sendControl b s = .next t) : t.Inv := by
  rw [sendControl, whenRunning_of_noFault h.noFault] at he
  cases he
  exact busByte_inv h

theorem sendCommand_inv {payload : List Byte} {s t : State} (h : s.Sound) (he : sendCommand payload s = .next t) :
    t.Inv := by
  rw [sendCommand, whenRunning_of_noFault h.noFault] at he
  exact drive_inv (callTransact_loadTx_inv h) he

theorem execRun_inv {n : BitVec 8} {s t : State} (h : s.Inv) (hf : s.fault = none) (hs : s.seq ≠ [])
    (he : execRun n s = .next t) : t.Inv := by
  rw [execRun, whenRunning_of_noFault hf] at he
  cases he
  exact decodeRun_inv h hs

/-- An instruction leaves the invariant; RUN and TICK, which leave SEQ as it is, need it before, inside an operation. -/
theorem exec_inv {i : Instr} {s t : State} (h : s.Sound)
    (hin : i.format = .rle8 ∨ i.format = .evt1 → s.Inv ∧ s.seq ≠ []) (he : exec i s = .next t) : t.Inv := by
  cases i with
  | clear | decode | update | init | transact | arm => exact hostOp_inv h he
  | streamPage => exact execStreamPage_inv h he
  | tick => exact execTick_inv (hin (.inr rfl)).1 he
  | addrWrite => exact execAddrWrite_inv h he
  | addrRead => cases he
  | ctrlCmdSingle | ctrlCmdMulti | ctrlDataSingle | ctrlDataMulti => exact sendControl_inv h he
  | dcSetPage | dcColLo | dcColHi | dcDisplayOff | dcAddrMode | dcMuxRatio | dcDisplayOffset | dcSegRemap | dcComScan
  | dcComPins | dcContrast | dcDisplayRam | dcNormal | dcOsc | dcPrecharge | dcVcomh | dcChargePump | dcDisplayOn =>
    exact sendCommand_inv h he
  | run =>
    obtain ⟨hi, hs⟩ := hin (.inl rfl)
    exact execRun_inv hi h.noFault hs he

end Sys2Proof.Machine

/-! ### The formats the decoders answer -/

namespace Sys2Proof

theorem decodeHostOp_format {b : Byte} {i : Instr} (h : decodeHostOp b = some i) : i.format = .hostop8 := by
  unfold decodeHostOp at h
  split at h <;> cases h <;> rfl

theorem decodeCtrl_format {c : Config} {b : Byte} {i : Instr} (h : decodeCtrl c b = some i) : i.format = .ctrl8 := by
  grind [decodeCtrl, Instr.format]

theorem decodeCommand8_format {c : Config} {b : Byte} {i : Instr} (h : decodeCommand8 c b = some i) :
    i.format = .dcmd8 := by
  grind [decodeCommand8, decodeFixedCommand, Instr.format]

theorem decodeCommand16_format {op arg : Byte} {i : Instr} (h : decodeCommand16 op arg = some i) :
    i.format = .dcmd16 := by
  grind [decodeCommand16, Instr.format]

/-- A transaction of INIT_SEQ is decoded as a row of one of the two command formats. -/
theorem decodeTransaction_format {c : Config} {t : List Byte} {i : Instr} (h : decodeTransaction c t = some i) :
    i.format = .dcmd8 ∨ i.format = .dcmd16 := by
  unfold decodeTransaction at h
  dsimp only at h
  split at h
  · rename_i j hfound
    split at h
    · cases h
      split at hfound
      · exact .inl (decodeCommand8_format hfound)
      · exact .inr (decodeCommand16_format hfound)
      · cases hfound
    · cases h
  · cases h

end Sys2Proof

namespace Sys2Proof.Machine

/-! ### What a step runs -/

/-- HOST's write to CMD selects one of the host operations (30_encoding.md R91). -/
theorem decode_hostop8_format {c : Config} {b : Byte} {i : Instr} {rest : List Byte}
    (h : Sys2Proof.decode c .hostop8 [b] = .ok i rest) : i.format = .hostop8 := by
  rw [Sys2Proof.decode] at h
  cases hd : decodeHostOp b with
  | none => rw [hd] at h; cases h
  | some j =>
    rw [hd] at h
    cases h
    exact decodeHostOp_format hd

/-- RUN is fetched at DECODE's loop alone, TICK at its first step alone. -/
theorem fetch_run_or_tick {s : State} {i : Instr} (h : fetch s = some i) (hi : i.format = .rle8 ∨ i.format = .evt1) :
    (∃ k, s.seq = .decodeLoop :: k) ∨ s.seq = [.tick] := by
  unfold fetch at h
  split at h
  case h_1 hs => exact .inr hs
  case h_4 =>
    split at h
    · rw [decodeCtrl_format h] at hi
      simp at hi
    · cases h
  case h_5 =>
    split at h
    · cases h
      simp [Instr.format] at hi
    · cases h
  case h_8 =>
    split at h
    · obtain hf | hf := decodeTransaction_format h <;> simp [hf] at hi
    · cases h
  case h_9 k hs => exact .inl ⟨k, hs⟩
  case h_10 => cases h
  all_goals
    cases h
    simp [Instr.format] at hi

/-- At these two points the engine is not moved before the instruction runs. -/
theorem enter_countdown_of_run_or_tick {s : State} (h : (∃ k, s.seq = .decodeLoop :: k) ∨ s.seq = [.tick]) :
    enter (countdown s) = countdown s := by
  obtain ⟨k, hk⟩ | hk := h <;> simp [enter, countdown_seq, hk]

theorem operationTurn_inv {s t : State} (h : s.Inv) (hr : s.engineReady = true)
    (ho : operationTurn exec s = .next t) : t.Inv := by
  have hf := engineReady_fault hr
  have hc : (countdown s).Inv := countdown_inv h
  unfold operationTurn at ho
  split at ho
  · exact execTick_inv h ho
  · rename_i i _ hfetch
    refine exec_inv (hc.sound ((countdown_fault s).trans hf)).enter (fun hi => ?_) ho
    have hs := fetch_run_or_tick hfetch hi
    rw [enter_countdown_of_run_or_tick hs, countdown_seq]
    refine ⟨hc, ?_⟩
    obtain ⟨k, hk⟩ | hk := hs <;> simp [hk]
  · exact advance_inv h ((if_pos hr).trans ho)

theorem writeReg_inv {reg : Nat} {v : Word} {s t : State} (h : s.Inv) (hw : writeReg s reg v = some t) : t.Inv := by
  obtain ⟨fb, busy, fault, idx, pend, playing⟩ := h
  unfold writeReg at hw
  split at hw
  case h_10 =>
    split at hw
    · rename_i hwindow
      cases hw
      have hlt : reg - 1024 < fbSize := Nat.sub_lt_left_of_lt_add hwindow.1 hwindow.2
      exact ⟨Memory.wf_write fb _ hlt, busy, fault, idx, pend, playing⟩
    · cases hw
  all_goals
    cases hw
    exact ⟨fb, busy, fault, idx, pend, playing⟩

theorem hostWrite_inv {reg : Nat} {v : Word} {s t : State} (h : s.Inv) (hw : hostWrite exec reg v s = .next t) :
    t.Inv := by
  unfold hostWrite at hw
  split at hw
  · cases hw
  · rename_i hm
    split at hw
    · split at hw
      · rename_i i _ hd
        refine exec_inv (h.sound_of_hostMay (by simpa using hm)) (fun hi => ?_) hw
        simp [decode_hostop8_format hd] at hi
      · cases hw
    · split at hw
      case h_1 hreg =>
        cases hw
        exact writeReg_inv h hreg
      case h_2 => cases hw

theorem landLine_inv {s t : State} (h : s.Inv) (hl : landLine exec s = .next t) : t.Inv := by
  unfold landLine at hl
  split at hl
  · cases hl
    exact h
  · cases hl
    exact tickIn_inv (script_inv h _)
  · exact hostRead_inv (script_inv h _) hl
  · exact hostWrite_inv (script_inv h _) hl

theorem quietLine_inv {s t : State} (h : s.Inv) (hq : quietLine exec s = .next t) : t.Inv := by
  unfold quietLine at hq
  split at hq
  · cases hq
    exact h
  · split at hq
    · cases hq
      exact h
    · exact landLine_inv h hq

/-- Settles O9: each of the agents' moves keeps the invariant, in the order in which `turn` asks for them. -/
theorem stepKeepsTheInvariant : Obligations.StepKeepsTheInvariant := by
  intro s t h hstep
  unfold step turn at hstep
  split at hstep
  · cases hstep
  · split at hstep
    · exact landLine_inv h hstep
    · split at hstep
      · rename_i hr
        exact operationTurn_inv h hr hstep
      · split at hstep
        · cases hstep
          exact busStep_inv (countdown_inv h)
        · split at hstep
          · rename_i ha
            cases hstep
            exact acceptTick_inv h ha
          · exact quietLine_inv h hstep

end Sys2Proof.Machine
end

section
/-! The host registers (10_state.md R40 to R48): what a read and a write of each number is. -/

namespace Sys2Proof.Machine

/-! ### STATUS -/

/-- Bits 15:12 of STATUS, and the bits its 16 do not have, are 0. -/
theorem State.status_getLsbD_high (s : State) {j : Nat} (hj : 12 ≤ j) : s.status.getLsbD j = false := by
  by_cases h16 : 16 ≤ j
  · exact BitVec.getLsbD_of_ge _ _ h16
  · obtain rfl | rfl | rfl | rfl : j = 12 ∨ j = 13 ∨ j = 14 ∨ j = 15 := by omega
    all_goals
      simp only [State.status, BitVec.getLsbD_append]
      simp

/-- Settles O20: STATUS is the flags side by side, so that each bit is one of them. -/
theorem statusShowsTheFlags : Obligations.StatusShowsTheFlags := by
  intro s
  have hword : s.status.setWidth 32 = BitVec.ofNat 32 s.status.toNat := (BitVec.ofNat_toNat 32 s.status).symm
  refine ⟨?_, ?_, ?_, ?_, ?_, ?_, ?_, ?_, ?_, ?_, ?_, ?_, fun j => s.status_getLsbD_high, congrArg some hword, fun v => rfl⟩
  all_goals
    simp only [State.status, BitVec.getLsbD_append]
    simp

/-! ### Reading and writing a register -/

theorem readReg_reserved (s : State) {reg : Nat} (h : reg = 2 ∨ 11 ≤ reg ∧ reg ≤ 1023 ∨ 2048 ≤ reg) :
    readReg s reg = none := by
  have hout : ¬ (1024 ≤ reg ∧ reg < 2048) := by omega
  unfold readReg
  split
  case h_11 => exact if_neg hout
  all_goals omega

theorem writeReg_reserved (s : State) {reg : Nat} (h : reg = 2 ∨ 11 ≤ reg ∧ reg ≤ 1023 ∨ 2048 ≤ reg) (v : Word) :
    writeReg s reg v = none := by
  have hout : ¬ (1024 ≤ reg ∧ reg < 2048) := by omega
  unfold writeReg
  split
  case h_10 => exact if_neg hout
  all_goals omega

/-- Each register is one part of the state, and reads the same where that part is the same. -/
theorem readReg_congr {s t : State} {r : Nat} (status : r = 1 → t.status = s.status)
    (argPage : r = 3 → t.argPage = s.argPage) (txlen : r = 4 → t.txlen = s.txlen)
    (b0 : r = 5 → t.txbuf.b0 = s.txbuf.b0) (b1 : r = 6 → t.txbuf.b1 = s.txbuf.b1)
    (b2 : r = 7 → t.txbuf.b2 = s.txbuf.b2) (b3 : r = 8 → t.txbuf.b3 = s.txbuf.b3)
    (offset : r = 9 → t.offset = s.offset) (frame : r = 10 → t.frame = s.frame)
    (fb : ∀ j, r = 1024 + j → t.fb.read j = s.fb.read j) : readReg t r = readReg s r := by
  unfold readReg
  split
  case h_11 =>
    split
    · rename_i hr
      rw [fb (_ - 1024) (Nat.add_sub_cancel' hr.1).symm]
    · rfl
  all_goals simp [*]

/-- A write changes no register but its own: of FB, no other byte of the window. -/
theorem readReg_writeReg_of_ne {s t : State} {reg r : Nat} {v : Word} (hfb : s.fb.wf = true)
    (hw : writeReg s reg v = some t) (hr : r ≠ reg) : readReg t r = readReg s r := by
  unfold writeReg at hw
  split at hw
  case h_10 =>
    split at hw
    · rename_i hwindow
      cases hw
      have hne : ∀ j, r = 1024 + j → j ≠ reg - 1024 := by
        intro j hj hjr
        rw [hjr, Nat.add_sub_cancel' hwindow.1] at hj
        exact hr hj
      apply readReg_congr
      case fb => exact fun j hj => (Memory.read_write hfb _ _ _).trans (if_neg (hne j hj))
      all_goals exact fun _ => rfl
    · cases hw
  all_goals
    cases hw
    apply readReg_congr
    all_goals
      intros
      first | rfl | exact absurd ‹_› hr

/-- Settles O21: the register's own value, for each of them, and `readReg_writeReg_of_ne` for the others. -/
theorem aRegisterReadsBackWhatWasWritten : Obligations.ARegisterReadsBackWhatWasWritten := by
  intro s reg v hfb
  have cut (k : Nat) : (v.setWidth k).setWidth 32 = BitVec.ofNat 32 (v.toNat % 2 ^ k) := by
    rw [← BitVec.ofNat_toNat, BitVec.toNat_setWidth]
  have other {t : State} (hw : writeReg s reg v = some t) : ∀ r, r ≠ reg → readReg t r = readReg s r :=
    fun r => readReg_writeReg_of_ne hfb hw
  refine ⟨rfl, fun h => ?_, fun h => ?_, fun h => ?_⟩
  · obtain rfl | rfl := h <;> exact ⟨_, rfl, congrArg some (cut 3), other rfl⟩
  · obtain h | ⟨hlo, hhi⟩ := h
    · obtain rfl | rfl | rfl | rfl : reg = 5 ∨ reg = 6 ∨ reg = 7 ∨ reg = 8 := by omega
      all_goals exact ⟨_, rfl, congrArg some (cut 8), other rfl⟩
    · obtain ⟨j, rfl⟩ : ∃ j, reg = 1024 + j := Nat.exists_eq_add_of_le hlo
      have hj : j < fbSize := show j < 1024 by omega
      have hw := writeReg_fbw s hj v
      refine ⟨_, hw, ?_, other hw⟩
      rw [readReg_fbw _ hj, Memory.read_write hfb, if_pos rfl]
      exact congrArg some (cut 8)
  · obtain rfl | rfl := h <;> exact ⟨_, rfl, rfl, other rfl⟩

end Sys2Proof.Machine
end

section
/-! The lines of HOST and TIMER (10_state.md R40, R48, R52): what a read or a write that lands answers, on a block that HOST may use
and on one that is busy or armed; and DECODE's loop, where a step runs the stream's byte. -/

namespace Sys2Proof.Machine

/-! ### A read and a write by HOST -/

section Accesses

variable {s t : State} {reg : Nat} {v w : Word} {run : Instr → State → Host.Outcome State Fault Refusal}

theorem hostRead_of_readReg (hm : reg = 1 ∨ s.hostMay = true) (h : readReg s reg = some w) :
    hostRead reg s = .next { s with hostData := s.hostData ++ [w] } := by
  have hmay : ¬ (reg ≠ 1 ∧ s.hostMay = false) := by
    rintro ⟨hne, hno⟩
    simp [hne, hno] at hm
  simp only [hostRead, if_neg hmay, h]

theorem hostRead_reserved (hm : s.hostMay = true) (h : readReg s reg = none) :
    hostRead reg s = .refused (.reservedRegister reg) := by
  simp [hostRead, hm, h]

theorem hostRead_noMove (hm : s.hostMay = false) (h : reg ≠ 1) : hostRead reg s = .refused .noMove :=
  if_pos ⟨h, hm⟩

theorem hostWrite_of_writeReg (hm : s.hostMay = true) (h0 : reg ≠ 0) (h : writeReg s reg v = some t) :
    hostWrite run reg v s = .next t := by
  simp [hostWrite, hm, h0, h]

theorem hostWrite_reserved (hm : s.hostMay = true) (h0 : reg ≠ 0) (h : writeReg s reg v = none) :
    hostWrite run reg v s = .refused (.reservedRegister reg) := by
  simp [hostWrite, hm, h0, h]

theorem hostWrite_noMove (hm : s.hostMay = false) : hostWrite run reg v s = .refused .noMove :=
  if_pos hm

/-! ### The line that lands -/

variable {m : Moment} {rest : List Line}

theorem landLine_read (hs : s.script = ⟨m, .read reg⟩ :: rest) :
    landLine run s = hostRead reg { s with script := rest } := by
  simp only [landLine, hs]

theorem landLine_write (hs : s.script = ⟨m, .write reg v⟩ :: rest) :
    landLine run s = hostWrite run reg v { s with script := rest } := by
  simp only [landLine, hs]

/-- Where the next line may land it does, unless HOST waits with it. -/
theorem step_eq_landLine {l : Line} (hw : s.cfg.wf = true) (hl : s.lineLands = true) (hs : s.script = l :: rest)
    (h : s.lineDue = true ∨ (s.busy && l.move.waits) = false) : step s = landLine exec s := by
  rw [step_lineLands hw hl]
  split
  · rfl
  · rename_i hd
    have hwait := h.resolve_left hd
    simp [quietLine, hs, hwait]

/-! ### A block that HOST may use -/

/-- The line leaves the block as HOST may use it. -/
theorem State.Idle.hostMay_script (hi : s.Idle) : State.hostMay { s with script := rest } = true := hi.hostMay

/-- A read by HOST of an idle, unarmed block. -/
theorem step_idle_read (hw : s.cfg.wf = true) (hi : s.Idle) (hb : s.busReady = false)
    (hs : s.script = ⟨m, .read reg⟩ :: rest) (hr : readReg s reg = some w) :
    step s = .next { s with script := rest, hostData := s.hostData ++ [w] } := by
  rw [step_idle_line hw hi hb hs, landLine_read hs]
  exact hostRead_of_readReg (.inr hi.hostMay_script) hr

/-- A write by HOST, to a register other than CMD, of an idle, unarmed block. -/
theorem step_idle_write (hw : s.cfg.wf = true) (hi : s.Idle) (hb : s.busReady = false)
    (hs : s.script = ⟨m, .write reg v⟩ :: rest) (h0 : reg ≠ 0) (hwr : writeReg { s with script := rest } reg v = some t) :
    step s = .next t := by
  rw [step_idle_line hw hi hb hs, landLine_write hs]
  exact hostWrite_of_writeReg hi.hostMay_script h0 hwr

end Accesses

/-- Settles O22: `step_idle_write` and `step_idle_read` at each register. -/
theorem hostAccessesReachTheState : Obligations.HostAccessesReachTheState := by
  intro s m v rest hw hi hb
  refine ⟨fun hs => ?_, fun hs => ?_, fun hs => ?_, fun hs => ?_, fun hs => ?_, fun hs => ?_, fun hs => ?_, fun hs => ?_,
    fun hs => ?_, fun j hj hs => ?_, fun r hr hs => ?_, fun j hj hs => ?_⟩
  case refine_10 =>
    rw [BitVec.ofNat_toNat]
    exact step_idle_write hw hi hb hs (by omega) (writeReg_fbw _ hj v)
  case refine_11 =>
    refine step_idle_read hw hi hb hs ?_
    simp only [List.mem_cons, List.not_mem_nil, or_false] at hr
    obtain rfl | rfl | rfl | rfl | rfl | rfl | rfl | rfl | rfl | rfl := hr
    all_goals simp only [readReg, BitVec.ofNat_toNat, BitVec.setWidth_eq, BitVec.ofNat_eq_ofNat]
  case refine_12 =>
    refine step_idle_read hw hi hb hs ?_
    rw [readReg_fbw s hj, BitVec.ofNat_toNat]
  all_goals
    refine step_idle_write hw hi hb hs (by decide) ?_
    simp only [writeReg, TxBuf.set, BitVec.ofNat_toNat]

/-- Settles O23: a reserved register is neither read nor written. -/
theorem reservedRegistersAreRefused : Obligations.ReservedRegistersAreRefused := by
  intro s m reg v rest hw hi hb hreg hs
  obtain hs | hs := hs
  · rw [step_idle_line hw hi hb hs, landLine_read hs]
    exact hostRead_reserved hi.hostMay_script (readReg_reserved _ hreg)
  · rw [step_idle_line hw hi hb hs, landLine_write hs]
    exact hostWrite_reserved hi.hostMay_script (by omega) (writeReg_reserved _ hreg v)

/-! ### A block that is busy or armed -/

/-- Settles O24: the line lands, and HOST has no move but the read of STATUS. -/
theorem hostMayOnlyReadStatusWhileBusyOrArmed : Obligations.HostMayOnlyReadStatusWhileBusyOrArmed := by
  intro s m rest hw hl
  refine ⟨fun hs => ?_, fun hba => ?_⟩
  · rw [step_eq_landLine hw hl hs (.inr (by simp [Move.waits])), landLine_read hs]
    exact hostRead_of_readReg (.inl rfl) rfl
  · have hm : State.hostMay { s with script := rest } = false := by
      obtain ⟨hbusy, _⟩ | ⟨_, htick⟩ := hba
      · simp [State.hostMay, hbusy]
      · simp [State.hostMay, htick]
    have lands {a : Move} (hs : s.script = ⟨m, a⟩ :: rest) : step s = landLine exec s := by
      refine step_eq_landLine hw hl hs ?_
      obtain ⟨_, rfl⟩ | ⟨hbusy, _⟩ := hba
      · exact .inl (by simp [State.lineDue, hs])
      · exact .inr (by simp [hbusy])
    refine ⟨fun reg hreg hs => ?_, fun reg v hs => ?_⟩
    · rw [lands hs, landLine_read hs, hostRead_noMove hm hreg]
    · rw [lands hs, landLine_write hs, hostWrite_noMove hm]

/-- Settles O14: with TICK_EN = 1 HOST may not, so the line that lands is a tick, a read of STATUS, or waits. -/
theorem afterArmHostChangesNothing : Obligations.AfterArmHostChangesNothing := by
  intro s t hw htick hl hstep
  have hm : s.hostMay = false := by simp [State.hostMay, htick]
  rw [step_lineLands hw hl] at hstep
  split at hstep
  · exact landLine_busy hm hstep
  · unfold quietLine at hstep
    split at hstep
    · cases hstep
      rfl
    · split at hstep
      · cases hstep
        rfl
      · exact landLine_busy hm hstep

/-! ### The stream -/

/-- Settles O18: at DECODE's loop the byte at OFFSET is fetched, and no line counts down. -/
theorem stepRunsTheStreamByteAtOffset : Obligations.StepRunsTheStreamByteAtOffset := by
  intro s k n i rest hw hu hf hs hidx hget hdec
  cases hdec
  have hready : s.engineReady = true := by simp [State.engineReady, hf, hs]
  have hfetch : fetch s = some (.run n) := by
    simp only [fetch, hs, if_pos hidx, hget]
    rfl
  have henter : enter s = s := by simp [enter, hs]
  simp [step, turn, hw, lineDue_of_undisturbed hu, hready, operationTurn, hfetch, hu, henter]

end Sys2Proof.Machine
end

section
/-! Playback (10_state.md R53, 43_playback_scheduler.md R211 to R214): under K4 (00_scope.md R8) the stream from o_k on is the runs of
frame k and then o_(k+1), and TICK from its first step to its end plays the frame at the cursor. -/

namespace Sys2Proof

/-! ### The frames of a well-formed stream -/

/-- What `exactFrameLen` counts: the runs taken come to `need` exactly, and none of them but the last reaches it. -/
theorem exactFrameLen_spec {scale : Nat} {l : List Byte} : ∀ {need n : Nat}, 0 < need → exactFrameLen scale need l = some n →
    n ≤ l.length ∧ Machine.runsTotal scale (l.take n) = need ∧ ∀ j, j < n → Machine.runsTotal scale (l.take j) < need := by
  induction l with
  | nil => intro need n _ h; cases h
  | cons b l ih =>
    intro need n hneed h
    rw [exactFrameLen] at h
    split at h
    · rename_i hexact
      cases h
      refine ⟨by simp, by simpa [Machine.runsTotal] using hexact, fun j hj => ?_⟩
      obtain rfl : j = 0 := by omega
      simpa [Machine.runsTotal] using hneed
    · split at h
      · rename_i hless
        obtain ⟨n', hn', rfl⟩ := Option.map_eq_some_iff.mp h
        obtain ⟨hlen, htot, hpre⟩ := ih (by omega) hn'
        refine ⟨by simpa using hlen, ?_, fun j hj => ?_⟩
        · rw [List.take_succ_cons, Machine.runsTotal_cons, htot]
          omega
        · cases j with
          | zero => simpa [Machine.runsTotal] using hneed
          | succ j =>
            have := hpre j (by omega)
            rw [List.take_succ_cons, Machine.runsTotal_cons]
            omega
      · cases h

/-- Where the frames before a later one are exact, so are those before an earlier one. -/
theorem Config.frameStart_of_le {c : Config} {j k o : Nat} (hjk : j ≤ k) (h : c.frameStart k = some o) :
    ∃ p, c.frameStart j = some p := by
  induction k generalizing o with
  | zero =>
    obtain rfl : j = 0 := by omega
    exact ⟨o, h⟩
  | succ k ih =>
    obtain rfl | hlt : j = k + 1 ∨ j ≤ k := by omega
    · exact ⟨o, h⟩
    · cases hk : c.frameStart k with
      | none => simp [Config.frameStart, hk] at h
      | some p => exact ih hlt hk

/-- Between o_k and o_(k+1) stand the runs of one frame. -/
theorem Config.frameAt_of_frameStart_succ {c : Config} {k o o' : Nat} (h : c.frameStart k = some o)
    (h' : c.frameStart (k + 1) = some o') :
    ∃ runs, Machine.frameAt c o runs ∧ o + runs.length = o' ∧ o' ≤ c.streamLen := by
  simp only [Config.frameStart, h, Option.map_eq_some_iff] at h'
  obtain ⟨n, hn, rfl⟩ := h'
  obtain ⟨hlen, htot, hpre⟩ := exactFrameLen_spec (by decide) hn
  have hruns : ((c.stream.drop o).take n).length = n := List.length_take_of_le hlen
  have hpos : n ≠ 0 := by
    rintro rfl
    simp [Machine.runsTotal] at htot
  refine ⟨(c.stream.drop o).take n, ⟨⟨by rw [hruns], fun j hj => ?_⟩, htot⟩, by rw [hruns], ?_⟩
  · rw [hruns] at hj
    rw [List.take_take, Nat.min_eq_left (Nat.le_of_lt hj)]
    exact hpre j hj
  · rw [List.length_drop] at hlen
    show _ ≤ c.stream.length
    omega

/-- K4 (00_scope.md R8): every frame number below TOTAL_FRAMES has its frame, and the cursor behind it is the next o_k. -/
theorem Config.exists_frame {c : Config} {k o : Nat} (hok : c.streamOk = true) (hk : k < c.totalFrames)
    (h : c.frameStart k = some o) :
    ∃ runs, Machine.frameAt c o runs ∧ c.frameStart (k + 1) = some (o + runs.length) ∧ o + runs.length ≤ c.streamLen := by
  obtain ⟨o', h'⟩ := Config.frameStart_of_le hk (beq_iff_eq.mp hok)
  obtain ⟨runs, hframe, rfl, hle⟩ := Config.frameAt_of_frameStart_succ h h'
  exact ⟨runs, hframe, h', hle⟩

end Sys2Proof

namespace Sys2Proof.Machine

/-! ### TICK -/

/-- OFFSET where TICK reads its frame: the start of the stream where the loop restarts (43_playback_scheduler.md R212). -/
def State.playOffset (s : State) : BitVec 32 := if s.frame.toNat = s.cfg.totalFrames then 0 else s.offset

/-- FRAME where TICK plays it: the number of its frame. -/
def State.playFrame (s : State) : BitVec 32 := if s.frame.toNat = s.cfg.totalFrames then 0 else s.frame

/-- The state after TICK has played the frame `runs`, whose image is `m`. -/
def played (m : Memory) (runs : List Byte) (s : State) : State :=
  { s with
    playing := true, fb := m, offset := s.playOffset + BitVec.ofNat 32 runs.length, frame := s.playFrame + 1,
    idx := BitVec.ofNat 11 fbSize, color := runs.length % 2 == 1, run := runs.getLast?.getD s.run, rem := 0,
    page := 8, col := BitVec.ofNat 8 displayW,
    txbuf := { s.txbuf with b0 := s.cfg.ctrlCmdSingle, b1 := s.cfg.cmdColHi }, txlen := 2, txptr := 2,
    wire := s.wire ++ updateTrace s.cfg m, tickPend := false, hb := !s.hb }

/-- The points of TICK behind its first two. -/
def tickRest : List Work := [.decode, .update, .tickCount, .tickClear, .tickBeat]

/-- TICK up to its DECODE: PLAYING <- 1, and the loop restart where FRAME = TOTAL_FRAMES (R211, R212). -/
theorem reaches_tickRestart {s : State} (h : s.Answered) (hi : s.initDone = true) :
    Reaches 0 2 (begin .tick s)
      (goOn tickRest { s with playing := true, offset := s.playOffset, frame := s.playFrame }) := by
  have first : Reaches 0 1 (begin .tick s) (goOn (.tickRestart :: tickRest) { s with playing := true }) := by
    refine reaches_engine (by simp) h.undisturbed (by simp [State.engineReady, h.fault]) ?_
    exact (if_pos hi).trans rfl
  have restart : Reaches 0 1 (goOn (.tickRestart :: tickRest) { s with playing := true })
      (goOn tickRest { s with playing := true, offset := s.playOffset, frame := s.playFrame }) := by
    refine reaches_engine (by simp) h.undisturbed (by simp [State.engineReady, h.fault]) ?_
    by_cases hf : s.frame.toNat = s.cfg.totalFrames <;>
      simp [engine, engineAt, hf, State.playOffset, State.playFrame, goOn]
  exact first.trans restart

/-- The last three steps of TICK: the frame is counted, TICK_PEND is cleared, HB changes (R213, R214). -/
theorem reaches_tickEnd {s : State} (h : s.Answered) :
    Reaches 0 3 (goOn [.tickCount, .tickClear, .tickBeat] s)
      (goOn [] { s with frame := s.frame + 1, tickPend := false, hb := !s.hb }) := by
  have count : Reaches 0 1 (goOn [.tickCount, .tickClear, .tickBeat] s)
      (goOn [.tickClear, .tickBeat] { s with frame := s.frame + 1 }) :=
    reaches_engine (by simp) h.undisturbed (by simp [State.engineReady, h.fault]) rfl
  have clear : Reaches 0 1 (goOn [.tickClear, .tickBeat] { s with frame := s.frame + 1 })
      (goOn [.tickBeat] { s with frame := s.frame + 1, tickPend := false }) :=
    reaches_engine (by simp) h.undisturbed (by simp [State.engineReady, h.fault]) rfl
  have beat : Reaches 0 1 (goOn [.tickBeat] { s with frame := s.frame + 1, tickPend := false })
      (goOn [] { s with frame := s.frame + 1, tickPend := false, hb := !s.hb }) :=
    reaches_engine (by simp) h.undisturbed (by simp [State.engineReady, h.fault]) rfl
  exact (count.trans clear).trans beat

/-- TICK from its first step to its end, with a frame of the stream at the cursor it reads from (R211). -/
theorem reaches_tick {s : State} {runs : List Byte} (h : s.Clear) (hl : s.cfg.streamLen < 2 ^ 32)
    (hi : s.initDone = true) (hr : frameAt s.cfg s.playOffset.toNat runs) :
    ∃ m : Memory, m.wf = true ∧ shows m s.cfg.pixelScale runs ∧
      Reaches 0 (runs.length + 4683) (begin .tick s) (goOn [] (played m runs s)) := by
  obtain ⟨hquiet, hdev, hu, hf⟩ := h
  have start := reaches_tickRestart ⟨hdev, hu, hf⟩ hi
  obtain ⟨m, hwf, hshows, decoded⟩ := reaches_decode (depth := 0) (k := [.update, .tickCount, .tickClear, .tickBeat])
    (s := { s with playing := true, offset := s.playOffset, frame := s.playFrame }) (Nat.zero_le _) hf hu hl runs hr
  have updated := reaches_update (depth := 0) (k := [.tickCount, .tickClear, .tickBeat])
    (s := { s with
      playing := true, frame := s.playFrame, fb := m, offset := s.playOffset + BitVec.ofNat 32 runs.length,
      idx := BitVec.ofNat 11 fbSize, color := runs.length % 2 == 1, run := runs.getLast?.getD s.run, rem := 0 })
    ⟨hdev, hu, hf⟩ hquiet (Nat.zero_le _) hi
  have done := reaches_tickEnd (s := pageSent 8 (s.wire ++ updateTrace s.cfg m) { s with
      playing := true, frame := s.playFrame, fb := m, offset := s.playOffset + BitVec.ofNat 32 runs.length,
      idx := BitVec.ofNat 11 fbSize, color := runs.length % 2 == 1, run := runs.getLast?.getD s.run, rem := 0 })
    ⟨hdev, hu, hf⟩
  refine ⟨m, hwf, hshows, ?_⟩
  have steps : runs.length + 4683 = 3 + (4674 + (runs.length + 4 + 2)) := by omega
  rw [steps]
  exact ((start.trans decoded).trans updated).trans done

/-- The instruction TICK on an idle, armed and initialized block with a frame of the stream at the cursor. -/
theorem exec_tick_plays {s : State} {runs : List Byte} (hw : s.cfg.wf = true) (hs : s.seq = []) (hb : s.busy = false)
    (he : s.tickEn = true) (h : s.Clear) (hi : s.initDone = true) (hr : frameAt s.cfg s.playOffset.toNat runs) :
    ∃ m : Memory, m.wf = true ∧ shows m s.cfg.pixelScale runs ∧ exec .tick s = .next (played m runs s) := by
  obtain ⟨_, ⟨_, _, hlen⟩, _⟩ := (Config.wf_iff _).mp hw
  obtain ⟨hquiet, hdev, hu, hf⟩ := h
  have hin : (tickIn s).Clear := ⟨hquiet, hdev, hu, hf⟩
  have haccept : (tickIn s).acceptable = true := by simp [State.acceptable, hb, he, hf]
  obtain ⟨m, hwf, hshows, hreach⟩ := reaches_tick (s := tickIn s) hin hlen hi hr
  refine ⟨m, hwf, hshows, ?_⟩
  have hrun : runs.length ≤ s.cfg.stream.length := by
    have := congrArg List.length hr.1.1
    rw [List.length_take, List.length_drop] at this
    omega
  have hfuel : runs.length + 4683 ≤ (begin .tick (tickIn s)).fuel := by
    have := (begin .tick (tickIn s)).fuel_ge
    simp only [begin_cfg, tickIn_cfg] at this
    omega
  have hend : goOn [] (played m runs (tickIn s)) = played m runs s := goOn_idle hs hb
  show execTick s = _
  rw [execTick_acceptable hu haccept, serveTick, hreach.drive_eq (Nat.le_refl 0) hfuel, hend]

/-! ### The invariant of R53 -/

/-- Where FRAME and OFFSET agree, TICK's frame is one below TOTAL_FRAMES and its cursor is that frame's start. -/
theorem frameStart_playFrame {s : State} (hw : s.cfg.wf = true) (hle : s.frame.toNat ≤ s.cfg.totalFrames)
    (ho : s.cfg.frameStart s.frame.toNat = some s.offset.toNat) :
    s.playFrame.toNat < s.cfg.totalFrames ∧ s.cfg.frameStart s.playFrame.toNat = some s.playOffset.toNat := by
  obtain ⟨_, ⟨hframes, _, _⟩, _⟩ := (Config.wf_iff _).mp hw
  unfold State.playFrame State.playOffset
  split
  · exact ⟨Nat.pos_of_ne_zero hframes, rfl⟩
  · rename_i hne
    exact ⟨Nat.lt_of_le_of_ne hle hne, ho⟩

/-- Settles O59: TICK plays the frame `Config.exists_frame` gives it, and counts to the next one. -/
theorem aTickKeepsCursorAndCounterTogether : Obligations.ATickKeepsCursorAndCounterTogether := by
  intro s hw hok hs hb he hclear hi hle ho
  obtain ⟨_, ⟨_, hmax, hlen⟩, _⟩ := (Config.wf_iff _).mp hw
  obtain ⟨hlt, hstart⟩ := frameStart_playFrame hw hle ho
  obtain ⟨runs, hframe, hnext, hstream⟩ := Config.exists_frame hok hlt hstart
  obtain ⟨m, _, hshows, hexec⟩ := exec_tick_plays hw hs hb he hclear hi hframe
  have hcount : (played m runs s).frame.toNat = s.playFrame.toNat + 1 :=
    BitVec.toNat_add_of_lt (y := 1#32) (show _ + 1 < 2 ^ 32 by omega)
  have hruns : (BitVec.ofNat 32 runs.length).toNat = runs.length := by
    rw [BitVec.toNat_ofNat, Nat.mod_eq_of_lt]
    exact Nat.lt_of_le_of_lt (Nat.le_trans (Nat.le_add_left _ _) hstream) hlen
  have hcursor : (played m runs s).offset.toNat = s.playOffset.toNat + runs.length := by
    have := BitVec.toNat_add_of_lt (x := s.playOffset) (y := BitVec.ofNat 32 runs.length)
    rw [hruns] at this
    exact this (Nat.lt_of_le_of_lt hstream hlen)
  have hplay : s.playFrame.toNat = if s.frame.toNat = s.cfg.totalFrames then 0 else s.frame.toNat :=
    apply_ite BitVec.toNat _ _ _
  refine ⟨played m runs s, hexec, by rw [hcount, hplay], by rw [hcount]; exact hlt, ?_,
    ⟨s.playOffset.toNat, runs, ?_, hframe, hcursor.symm, hshows⟩, rfl, rfl, rfl, hs, hb, hclear, rfl, he, hi⟩
  · rw [hcount, hcursor]
    exact hnext
  · rw [hcount]
    exact hstart

end Sys2Proof.Machine
end

section
/-! The memories (20_memory.md): a byte of the framebuffer (R71, R72), and the address bytes of the wire trace (R65).

The wire trace is followed by one property of a state, `State.AddressesOnlyDevice`. It speaks of the parameters and of WIRE alone,
so that a move that touches neither keeps it as it stands; of the moves that write to WIRE only bus_addr has an address byte
to account for. -/

namespace Sys2Proof.Machine

/-! ### The framebuffer -/

/-- Settles O26, by the two laws of a write to a canonical framebuffer. -/
theorem aByteOfFbReadsAsLastWritten : Obligations.AByteOfFbReadsAsLastWritten :=
  fun _ i j v hm hi => ⟨Memory.wf_write hm v hi, Memory.read_write hm i v j⟩

/-! ### The address bytes on the wires -/

/-- The parameters are `c`, and past the first `n` events of WIRE every address byte is that of the device they name. -/
def State.AddressesOnlyDevice (c : Config) (n : Nat) (s : State) : Prop :=
  s.cfg = c ∧ ∀ b, WireEvent.addr b ∈ s.wire.drop n → b = addressByte c

/-- DIR = 0 in the lowest bit (40_bus_transport.md R132). -/
theorem addressByte_toNat (c : Config) : (addressByte c).toNat = 2 * c.devAddr.toNat := by
  have happ : (addressByte c).toNat = c.devAddr.toNat <<< 1 ||| (0#1).toNat := BitVec.toNat_append _ _
  simp [happ, Nat.shiftLeft_eq, Nat.mul_comm]

section
variable {c : Config} {n : Nat} {s t : State}

theorem addressesOnlyDevice_at_end (s : State) : s.AddressesOnlyDevice s.cfg s.wire.length :=
  ⟨rfl, fun b hb => by simp at hb⟩

/-- A line taken off the script sends nothing. -/
theorem State.AddressesOnlyDevice.setScript (hs : s.AddressesOnlyDevice c n) (rest : List Line) :
    State.AddressesOnlyDevice c n { s with script := rest } := hs

/-- One more event on the wires: if it is an address byte, it is the device's. -/
theorem State.AddressesOnlyDevice.append {e : WireEvent} (hs : s.AddressesOnlyDevice c n)
    (he : ∀ b, e = .addr b → b = addressByte c) (hc : t.cfg = s.cfg) (hw : t.wire = s.wire ++ [e]) :
    t.AddressesOnlyDevice c n := by
  obtain ⟨hcfg, hwire⟩ := hs
  refine ⟨hc.trans hcfg, fun b hb => ?_⟩
  rw [hw, List.drop_append, List.mem_append] at hb
  obtain hold | hnew := hb
  · exact hwire b hold
  · exact he b (List.mem_singleton.mp (List.mem_of_mem_drop hnew)).symm

theorem busAddr_addressesOnlyDevice (k : List Work) (hs : s.AddressesOnlyDevice c n) :
    (busAddr k s).AddressesOnlyDevice c n :=
  hs.append (fun b hb => by cases hb; rw [hs.1]) rfl (busAddr_wire k s)

theorem busByte_addressesOnlyDevice (b : Byte) (k : List Work) (hs : s.AddressesOnlyDevice c n) :
    (busByte b k s).AddressesOnlyDevice c n :=
  hs.append (e := .data b) nofun rfl rfl

theorem busStop_addressesOnlyDevice (k : List Work) (hs : s.AddressesOnlyDevice c n) :
    (busStop k s).AddressesOnlyDevice c n :=
  hs.append (e := .stop) nofun rfl rfl

theorem busStep_addressesOnlyDevice (hs : s.AddressesOnlyDevice c n) : (busStep s).AddressesOnlyDevice c n := by
  unfold busStep
  split
  · exact hs.append (e := .start) nofun rfl rfl
  · split <;> exact hs

theorem countdown_addressesOnlyDevice (hs : s.AddressesOnlyDevice c n) : (countdown s).AddressesOnlyDevice c n := by
  unfold countdown
  split <;> exact hs

theorem enter_addressesOnlyDevice (hs : s.AddressesOnlyDevice c n) : (enter s).AddressesOnlyDevice c n := by
  unfold enter
  split <;> exact hs

theorem decodeRun_addressesOnlyDevice (b : Byte) (hs : s.AddressesOnlyDevice c n) :
    (decodeRun b s).AddressesOnlyDevice c n := by
  unfold decodeRun
  split <;> exact hs

theorem hostRead_addressesOnlyDevice {reg : Nat} (hs : s.AddressesOnlyDevice c n) (h : hostRead reg s = .next t) :
    t.AddressesOnlyDevice c n := by
  unfold hostRead at h
  split at h
  · cases h
  · split at h
    · cases h; exact hs
    · cases h

theorem writeReg_addressesOnlyDevice {reg : Nat} {v : Word} (hs : s.AddressesOnlyDevice c n)
    (h : writeReg s reg v = some t) : t.AddressesOnlyDevice c n := by
  unfold writeReg at h
  split at h
  case h_10 =>
    split at h
    · cases h; exact hs
    · cases h
  all_goals cases h; exact hs

theorem landBusy_addressesOnlyDevice {m : Move} (hs : s.AddressesOnlyDevice c n) (h : landBusy m s = .next t) :
    t.AddressesOnlyDevice c n := by
  cases m with
  | tick => cases h; exact hs
  | read reg => exact hostRead_addressesOnlyDevice hs h
  | write reg v => cases h

/-- The engine writes to WIRE at `addr`, at `stop` and where it sends a byte. -/
theorem engineAt_addressesOnlyDevice {w : Work} {k : List Work} (hs : s.AddressesOnlyDevice c n)
    (h : engineAt w k s = .next t) : t.AddressesOnlyDevice c n := by
  cases w with
  | addr => cases h; exact busAddr_addressesOnlyDevice k hs
  | stop => cases h; exact busStop_addressesOnlyDevice k hs
  | pageCtrl => cases h; exact busByte_addressesOnlyDevice _ k hs
  | txLoop | pageLoop =>
    simp only [engineAt] at h
    split at h
    · split at h
      · cases h; exact busByte_addressesOnlyDevice _ _ hs
      · cases h
    · cases h; exact hs
  | decodeLoop =>
    simp only [engineAt] at h
    split at h
    · split at h
      · cases h; exact decodeRun_addressesOnlyDevice _ hs
      · cases h; exact hs
    · cases h; exact hs
  | tickRestart => cases h; split <;> exact hs
  | transact | waitStart | waitAddr | waitBtc | streamPage | init | initLoop | update | updateLoop | tick =>
    simp only [engineAt] at h
    split at h <;> cases h <;> exact hs
  | start | txFirst | txNext | pageFirst | pageNext | initNext | setPage | colLo | colHi | updateNext | clear | decode
  | decodeFirst | tickCount | tickClear | tickBeat | arm =>
    cases h; exact hs

theorem engine_addressesOnlyDevice (hs : s.AddressesOnlyDevice c n) (h : engine s = .next t) :
    t.AddressesOnlyDevice c n := by
  unfold engine at h
  split at h
  · cases h; exact hs
  · exact engineAt_addressesOnlyDevice hs h

theorem advance_addressesOnlyDevice (hs : s.AddressesOnlyDevice c n) (h : advance s = .next t) :
    t.AddressesOnlyDevice c n := by
  have hc := countdown_addressesOnlyDevice hs
  unfold advance at h
  split at h
  · exact engine_addressesOnlyDevice hc h
  · cases h; exact busStep_addressesOnlyDevice hc

theorem drive_addressesOnlyDevice {fuel depth : Nat} (hs : s.AddressesOnlyDevice c n)
    (h : drive fuel depth s = .next t) : t.AddressesOnlyDevice c n :=
  drive_keeps (R := fun s t => s.AddressesOnlyDevice c n → t.AddressesOnlyDevice c n) (fun _ => id) (fun f g => g ∘ f)
    (fun _ ha hs => advance_addressesOnlyDevice hs ha)
    (fun _ hl hs => landBusy_addressesOnlyDevice (hs.setScript _) hl) fuel h hs

/-- With a verdict standing nothing runs and nothing is sent. -/
theorem whenRunning_addressesOnlyDevice {o : Host.Outcome State Fault Refusal} (hs : s.AddressesOnlyDevice c n)
    (h : whenRunning s o = .next t) (run : o = .next t → t.AddressesOnlyDevice c n) : t.AddressesOnlyDevice c n := by
  unfold whenRunning at h
  split at h
  · exact run h
  · cases h; exact hs

theorem hostOp_addressesOnlyDevice {w : Work} (hs : s.AddressesOnlyDevice c n) (h : hostOp w s = .next t) :
    t.AddressesOnlyDevice c n := by
  unfold hostOp at h
  split at h
  · exact drive_addressesOnlyDevice (s := begin w s) hs h
  · cases h

theorem execStreamPage_addressesOnlyDevice (hs : s.AddressesOnlyDevice c n) (h : execStreamPage s = .next t) :
    t.AddressesOnlyDevice c n := by
  unfold execStreamPage at h
  split at h
  · exact drive_addressesOnlyDevice (s := begin .streamPage { s with page := s.argPage.setWidth 4 }) hs h
  · cases h

theorem execTick_addressesOnlyDevice (hs : s.AddressesOnlyDevice c n) (h : execTick s = .next t) :
    t.AddressesOnlyDevice c n := by
  have hin : (tickIn s).AddressesOnlyDevice c n := hs
  unfold execTick at h
  split at h
  · exact drive_addressesOnlyDevice (s := acceptTick (tickIn s)) (countdown_addressesOnlyDevice hin) h
  · split at h
    · exact drive_addressesOnlyDevice hin h
    · cases h; exact hin

/-- ADDR_WRITE is refused for another address, so that it sends the device's (log entry 11). -/
theorem execAddrWrite_addressesOnlyDevice {a : BitVec 7} (hs : s.AddressesOnlyDevice c n)
    (h : execAddrWrite a s = .next t) : t.AddressesOnlyDevice c n := by
  unfold execAddrWrite at h
  split at h
  · exact whenRunning_addressesOnlyDevice hs h fun ho => by cases ho; exact busAddr_addressesOnlyDevice _ hs
  · cases h

theorem sendControl_addressesOnlyDevice {b : Byte} (hs : s.AddressesOnlyDevice c n) (h : sendControl b s = .next t) :
    t.AddressesOnlyDevice c n :=
  whenRunning_addressesOnlyDevice hs h fun ho => by cases ho; exact busByte_addressesOnlyDevice _ _ hs

theorem sendCommand_addressesOnlyDevice {payload : List Byte} (hs : s.AddressesOnlyDevice c n)
    (h : sendCommand payload s = .next t) : t.AddressesOnlyDevice c n :=
  whenRunning_addressesOnlyDevice hs h fun ho =>
    drive_addressesOnlyDevice (s := callTransact s.seq (loadTx (commandTransaction s.cfg payload) s)) hs ho

theorem exec_addressesOnlyDevice {i : Instr} (hs : s.AddressesOnlyDevice c n) (h : exec i s = .next t) :
    t.AddressesOnlyDevice c n := by
  cases i with
  | clear | decode | update | init | transact | arm => exact hostOp_addressesOnlyDevice hs h
  | streamPage => exact execStreamPage_addressesOnlyDevice hs h
  | tick => exact execTick_addressesOnlyDevice hs h
  | addrWrite => exact execAddrWrite_addressesOnlyDevice hs h
  | addrRead => cases h
  | ctrlCmdSingle | ctrlCmdMulti | ctrlDataSingle | ctrlDataMulti => exact sendControl_addressesOnlyDevice hs h
  | dcSetPage | dcColLo | dcColHi | dcDisplayOff | dcAddrMode | dcMuxRatio | dcDisplayOffset | dcSegRemap | dcComScan
  | dcComPins | dcContrast | dcDisplayRam | dcNormal | dcOsc | dcPrecharge | dcVcomh | dcChargePump | dcDisplayOn =>
    exact sendCommand_addressesOnlyDevice hs h
  | run => exact whenRunning_addressesOnlyDevice hs h fun ho => by cases ho; exact decodeRun_addressesOnlyDevice _ hs

theorem hostWrite_addressesOnlyDevice {reg : Nat} {v : Word} (hs : s.AddressesOnlyDevice c n)
    (h : hostWrite exec reg v s = .next t) : t.AddressesOnlyDevice c n := by
  unfold hostWrite at h
  split at h
  · cases h
  · split at h
    · split at h
      · exact exec_addressesOnlyDevice hs h
      · cases h
    · split at h
      · rename_i hw; cases h; exact writeReg_addressesOnlyDevice hs hw
      · cases h

theorem landLine_addressesOnlyDevice (hs : s.AddressesOnlyDevice c n) (h : landLine exec s = .next t) :
    t.AddressesOnlyDevice c n := by
  unfold landLine at h
  split at h
  · cases h; exact hs
  · cases h; exact hs
  · exact hostRead_addressesOnlyDevice (hs.setScript _) h
  · exact hostWrite_addressesOnlyDevice (hs.setScript _) h

theorem quietLine_addressesOnlyDevice (hs : s.AddressesOnlyDevice c n) (h : quietLine exec s = .next t) :
    t.AddressesOnlyDevice c n := by
  unfold quietLine at h
  split at h
  · cases h; exact hs
  · split at h
    · cases h; exact hs
    · exact landLine_addressesOnlyDevice hs h

theorem operationTurn_addressesOnlyDevice (hs : s.AddressesOnlyDevice c n) (h : operationTurn exec s = .next t) :
    t.AddressesOnlyDevice c n := by
  have hc := countdown_addressesOnlyDevice hs
  unfold operationTurn at h
  split at h
  · exact exec_addressesOnlyDevice hs h
  · exact exec_addressesOnlyDevice (enter_addressesOnlyDevice hc) h
  · exact engine_addressesOnlyDevice hc h

/-- Whichever of the agents moves, no other device is addressed. -/
theorem step_addressesOnlyDevice (hs : s.AddressesOnlyDevice c n) (h : step s = .next t) :
    t.AddressesOnlyDevice c n := by
  have hc := countdown_addressesOnlyDevice hs
  unfold step turn at h
  split at h
  · cases h
  · split at h
    · exact landLine_addressesOnlyDevice hs h
    · split at h
      · exact operationTurn_addressesOnlyDevice hs h
      · split at h
        · cases h; exact busStep_addressesOnlyDevice hc
        · split at h
          · cases h; exact hc
          · exact quietLine_addressesOnlyDevice hs h

end

/-- Settles O11: at the end of WIRE nothing is there to account for, and the step keeps it so. -/
theorem onlyTheDeviceIsAddressedAndOnlyForWriting : Obligations.OnlyTheDeviceIsAddressedAndOnlyForWriting := by
  intro s t h b hb
  obtain ⟨_, hwire⟩ := step_addressesOnlyDevice (addressesOnlyDevice_at_end s) h
  rw [hwire b hb]
  exact addressByte_toNat s.cfg

end Sys2Proof.Machine
end

section
/-! The encodings (30_encoding.md): the fields of a byte, each format's decoder against the encoder (R120), the reserved codes of CMD
(R110), and what the rows of the command table and of the stream do when they run (R101, R106).

That a decoder answers only its own rows holds of every configuration (`encode_of_decode`): a row is read where the bits around its
fields are the fixed ones, and then the byte is these bits with the fields in their places. That every row is answered
needs rows that share no byte, and so the default parameters (`decode_encode`). -/

namespace Sys2Proof

/-! ### The fields of a byte -/

/-- A word whose bits around a field are the fixed ones is the fixed bits with the field between them. -/
theorem fixed_append_field_append {h m l : Nat} {u : BitVec h} {v : BitVec l} {b : BitVec (h + m + l)}
    (hb : b &&& (BitVec.allOnes h ++ 0#m ++ BitVec.allOnes l) = u ++ 0#m ++ v) : u ++ b.extractLsb' l m ++ v = b := by
  ext i hi
  have hbit := congrArg (BitVec.getLsbD · i) hb
  simp only [BitVec.getLsbD_and, BitVec.getLsbD_append, BitVec.getLsbD_allOnes, BitVec.getLsbD_zero] at hbit
  simp only [BitVec.getElem_append, BitVec.getElem_extractLsb']
  grind

/-- The same of a field in the lowest bits. -/
theorem fixed_append_field {h m : Nat} {u : BitVec h} {b : BitVec (h + m)}
    (hb : b &&& (BitVec.allOnes h ++ 0#m) = u ++ 0#m) : u ++ b.extractLsb' 0 m = b := by
  simpa using fixed_append_field_append (v := 0#0) (b := b) (u := u) (by simpa using hb)

/-- A byte whose bits above a field of `k` bits are those of a base is the base with the field put in. -/
theorem base_or_field {k : Nat} {b base mask : Byte} (hmask : ~~~mask = (BitVec.allOnes k).setWidth 8)
    (hb : b &&& mask = base) : base ||| (b.extractLsb' 0 k).setWidth 8 = b := by
  subst hb
  ext i hi
  have hbit := congrArg (BitVec.getLsbD · i) hmask
  simp only [BitVec.getLsbD_not, BitVec.getLsbD_setWidth, BitVec.getLsbD_allOnes] at hbit
  simp only [BitVec.getElem_or, BitVec.getElem_and, BitVec.getElem_setWidth, BitVec.getLsbD_extractLsb', Nat.zero_add]
  grind

/-- A field put in a base whose bits under it are zero is added to it. -/
theorem toNat_base_or_field {base : Byte} {k : Nat} (hk : k ≤ 8) (hbase : base.toNat % 2 ^ k = 0) (x : BitVec k) :
    (base ||| x.setWidth 8).toNat = base.toNat + x.toNat := by
  have hx : x.toNat < 2 ^ 8 := Nat.lt_of_lt_of_le x.isLt (Nat.pow_le_pow_right (by decide) hk)
  obtain ⟨a, ha⟩ := Nat.dvd_of_mod_eq_zero hbase
  rw [BitVec.toNat_or, BitVec.toNat_setWidth, Nat.mod_eq_of_lt hx, ha, Nat.two_pow_add_eq_or_of_lt x.isLt]

/-! ### A decoder answers only the rows of its format -/

section
variable {c : Config} {op arg b : Byte} {i : Instr}

/-- A table read row by row: the answer is that of the row in hand, or of the rows after it. -/
theorem answer_of_ite {p : Prop} [Decidable p] {row rows : Option Instr} (h : (if p then row else rows) = some i) :
    (p ∧ row = some i) ∨ rows = some i := by
  split at h
  · rename_i hp; exact .inl ⟨hp, h⟩
  · exact .inr h

/-- The same of a single row with nothing after it. -/
theorem answer_of_ite_none {p : Prop} [Decidable p] {j : Instr} (h : (if p then some j else none) = some i) : p ∧ j = i := by
  simpa only [Option.ite_none_right_eq_some, Option.some.injEq] using h

/-- The operation codes of R91 as a table. -/
theorem decodeHostOp_eq_ite (b : Byte) : decodeHostOp b =
    if b = 0x01 then some .clear else if b = 0x02 then some .decode else if b = 0x03 then some .update
    else if b = 0x04 then some .init else if b = 0x05 then some .transact else if b = 0x06 then some .streamPage
    else if b = 0x07 then some .arm else none := by
  simp only [decodeHostOp, ← BitVec.toNat_inj]
  split <;> simp_all

/-- The reserved codes of R110. -/
theorem decodeHostOp_eq_none_of_reserved (h : b = 0x00 ∨ 0x08 ≤ b.toNat) : decodeHostOp b = none := by
  have hb : b.toNat = 0 ∨ 8 ≤ b.toNat := h.imp_left (congrArg BitVec.toNat)
  unfold decodeHostOp
  split
  case h_8 => rfl
  all_goals omega

theorem encode_of_decodeHostOp (h : decodeHostOp b = some i) : encode c i = [b] := by
  rw [decodeHostOp_eq_ite] at h
  iterate 6
    rcases answer_of_ite h with ⟨rfl, row⟩ | h
    · cases row; rfl
  obtain ⟨rfl, rfl⟩ := answer_of_ite_none h
  rfl

theorem decodeAddr_format (b : Byte) : (decodeAddr b).format = .addr8 := by
  unfold decodeAddr
  split <;> rfl

theorem address_append_direction (b : Byte) : b.extractLsb' 1 7 ++ BitVec.ofBool (b.getLsbD 0) = b := by
  have hdir : ∀ d : BitVec 1, BitVec.ofBool (d == 1#1) = d := by decide
  rw [BitVec.getLsbD_eq_extractLsb', hdir]
  exact BitVec.extractLsb'_append_extractLsb'

theorem encode_decodeAddr (c : Config) (b : Byte) : encode c (decodeAddr b) = [b] := by
  have hsplit := address_append_direction b
  unfold decodeAddr
  split <;> rename_i hdir <;> simp only [hdir] at hsplit <;> exact congrArg ([·]) hsplit

theorem encode_of_decodeCtrl (h : decodeCtrl c b = some i) : encode c i = [b] := by
  unfold decodeCtrl at h
  iterate 3
    rcases answer_of_ite h with ⟨rfl, row⟩ | h
    · cases row; rfl
  obtain ⟨rfl, rfl⟩ := answer_of_ite_none h
  rfl

theorem encode_of_decodeFixedCommand (h : decodeFixedCommand b = some i) : encode c i = [b] := by
  unfold decodeFixedCommand at h
  rcases answer_of_ite h with ⟨rfl, row⟩ | h
  · cases row; rfl
  rcases answer_of_ite h with ⟨remap, row⟩ | h
  · cases row; exact congrArg ([·]) (fixed_append_field remap)
  rcases answer_of_ite h with ⟨scan, row⟩ | h
  · cases row; exact congrArg ([·]) (fixed_append_field_append (v := 0#3) scan)
  rcases answer_of_ite h with ⟨rfl, row⟩ | h
  · cases row; rfl
  rcases answer_of_ite h with ⟨rfl, row⟩ | h
  · cases row; rfl
  obtain ⟨rfl, rfl⟩ := answer_of_ite_none h
  rfl

theorem encode_of_decodeCommand8 (h : decodeCommand8 c b = some i) : encode c i = [b] := by
  unfold decodeCommand8 at h
  rcases answer_of_ite h with ⟨page, row⟩ | h
  · cases row; exact congrArg ([·]) (base_or_field rfl page)
  rcases answer_of_ite h with ⟨lo, row⟩ | h
  · cases row; exact congrArg ([·]) (base_or_field rfl lo)
  rcases answer_of_ite h with ⟨hi, row⟩ | h
  · cases row; exact congrArg ([·]) (base_or_field rfl hi)
  exact encode_of_decodeFixedCommand h

/-- The two operands of the COM pins stand side by side (41_display_driver.md R180). -/
theorem comPins_argument (h : arg &&& 0xCF#8 = 0x02#8) :
    0#2 ++ arg.extractLsb' 5 1 ++ arg.extractLsb' 4 1 ++ 0b0010#4 = arg := by
  have both := fixed_append_field_append (u := 0#2) (m := 2) (v := 2#4) h
  have pair : arg.extractLsb' 5 1 ++ arg.extractLsb' 4 1 = arg.extractLsb' 4 2 :=
    BitVec.extractLsb'_append_extractLsb'_eq_extractLsb' rfl
  rw [← pair, BitVec.append_assoc'] at both
  exact both

theorem encode_of_decodeCommand16 (h : decodeCommand16 op arg = some i) : encode c i = [op, arg] := by
  have nibbles : arg.extractLsb' 4 4 ++ arg.extractLsb' 0 4 = arg := BitVec.extractLsb'_append_extractLsb'
  unfold decodeCommand16 at h
  rcases answer_of_ite h with ⟨rfl, row⟩ | h
  · obtain ⟨mode, rfl⟩ := answer_of_ite_none row
    exact congrArg ([_, ·]) (fixed_append_field mode)
  rcases answer_of_ite h with ⟨rfl, row⟩ | h
  · obtain ⟨ratio, rfl⟩ := answer_of_ite_none row
    exact congrArg ([_, ·]) (fixed_append_field ratio)
  rcases answer_of_ite h with ⟨rfl, row⟩ | h
  · obtain ⟨offset, rfl⟩ := answer_of_ite_none row
    exact congrArg ([_, ·]) (fixed_append_field offset)
  rcases answer_of_ite h with ⟨rfl, row⟩ | h
  · obtain ⟨pins, rfl⟩ := answer_of_ite_none row
    exact congrArg ([_, ·]) (comPins_argument pins)
  rcases answer_of_ite h with ⟨rfl, row⟩ | h
  · cases row; rfl
  rcases answer_of_ite h with ⟨rfl, row⟩ | h
  · cases row; exact congrArg ([_, ·]) nibbles
  rcases answer_of_ite h with ⟨rfl, row⟩ | h
  · cases row; exact congrArg ([_, ·]) nibbles
  rcases answer_of_ite h with ⟨rfl, row⟩ | h
  · obtain ⟨level, rfl⟩ := answer_of_ite_none row
    exact congrArg ([_, ·]) (fixed_append_field_append (v := 0#4) level)
  rcases answer_of_ite h with ⟨rfl, row⟩ | h
  · obtain ⟨pump, rfl⟩ := answer_of_ite_none row
    exact congrArg ([_, ·]) (fixed_append_field_append (v := 0#2) pump)
  cases h

end

theorem Decoded.ofOption_ite (p : Prop) [Decidable p] (row rows : Option Instr) (rest : List Byte) (r : Reject) :
    Decoded.ofOption (if p then row else rows) rest r =
      if p then Decoded.ofOption row rest r else Decoded.ofOption rows rest r :=
  apply_ite (Decoded.ofOption · rest r) p row rows

theorem Decoded.ofOption_eq_ok_iff {o : Option Instr} {rest rest' : List Byte} {r : Reject} {i : Instr} :
    Decoded.ofOption o rest r = .ok i rest' ↔ o = some i ∧ rest = rest' := by
  cases o <;> simp [Decoded.ofOption]

/-- Whatever the parameters, the bytes read as an instruction are the bytes of a row of the format. -/
theorem encode_of_decode {c : Config} {f : Format} {bytes rest : List Byte} {i : Instr} (hf : f ≠ .evt1)
    (h : decode c f bytes = .ok i rest) : i.format = f ∧ encode c i ++ rest = bytes := by
  match f, bytes with
  | _, [] => cases f <;> cases h
  | .hostop8, b :: _ =>
    obtain ⟨hi, rfl⟩ := Decoded.ofOption_eq_ok_iff.mp h
    exact ⟨decodeHostOp_format hi, by rw [encode_of_decodeHostOp hi]; rfl⟩
  | .evt1, _ => exact absurd rfl hf
  | .addr8, b :: _ =>
    cases h
    exact ⟨decodeAddr_format b, by rw [encode_decodeAddr]; rfl⟩
  | .ctrl8, _ :: _ =>
    obtain ⟨hi, rfl⟩ := Decoded.ofOption_eq_ok_iff.mp h
    exact ⟨decodeCtrl_format hi, by rw [encode_of_decodeCtrl hi]; rfl⟩
  | .dcmd8, _ :: _ =>
    obtain ⟨hi, rfl⟩ := Decoded.ofOption_eq_ok_iff.mp h
    exact ⟨decodeCommand8_format hi, by rw [encode_of_decodeCommand8 hi]; rfl⟩
  | .dcmd16, [_] => cases h
  | .dcmd16, _ :: _ :: _ =>
    obtain ⟨hi, rfl⟩ := Decoded.ofOption_eq_ok_iff.mp h
    exact ⟨decodeCommand16_format hi, by rw [encode_of_decodeCommand16 hi]; rfl⟩
  | .rle8, _ :: _ => cases h; exact ⟨rfl, rfl⟩

/-! ### With the default parameters every row is answered

The rows of a command format share no word with one another (R120): a row whose operands have at most six bits is read at each of
their values. -/

theorem decodeCommand8_setPage : ∀ p : BitVec 3,
    decodeCommand8 Config.standard (0xB0#8 ||| p.setWidth 8) = some (.dcSetPage p) := by decide

theorem decodeCommand8_colLo : ∀ l : BitVec 4,
    decodeCommand8 Config.standard (0x00#8 ||| l.setWidth 8) = some (.dcColLo l) := by decide

theorem decodeCommand8_colHi : ∀ h : BitVec 4,
    decodeCommand8 Config.standard (0x10#8 ||| h.setWidth 8) = some (.dcColHi h) := by decide

theorem decodeCommand8_segRemap : ∀ g : BitVec 1,
    decodeCommand8 Config.standard (0b1010000#7 ++ g) = some (.dcSegRemap g) := by decide

theorem decodeCommand8_comScan : ∀ d : BitVec 1,
    decodeCommand8 Config.standard (0b1100#4 ++ d ++ 0#3) = some (.dcComScan d) := by decide

theorem decodeCommand16_addrMode : ∀ m : BitVec 2, decodeCommand16 0x20 (0#6 ++ m) = some (.dcAddrMode m) := by decide

theorem decodeCommand16_muxRatio : ∀ r : BitVec 6, decodeCommand16 0xA8 (0#2 ++ r) = some (.dcMuxRatio r) := by decide

theorem decodeCommand16_displayOffset : ∀ o : BitVec 6,
    decodeCommand16 0xD3 (0#2 ++ o) = some (.dcDisplayOffset o) := by decide

theorem decodeCommand16_comPins : ∀ a b : BitVec 1,
    decodeCommand16 0xDA (0#2 ++ a ++ b ++ 0b0010#4) = some (.dcComPins a b) := by decide

theorem decodeCommand16_vcomh : ∀ v : BitVec 3,
    decodeCommand16 0xDB (0#1 ++ v ++ 0#4) = some (.dcVcomh v) := by decide

theorem decodeCommand16_chargePump : ∀ e : BitVec 1,
    decodeCommand16 0x8D (0b00010#5 ++ e ++ 0#2) = some (.dcChargePump e) := by decide

theorem decodeCommand16_osc (f d : BitVec 4) : decodeCommand16 0xD5 (f ++ d) = some (.dcOsc f d) :=
  congr (congrArg (some <| Instr.dcOsc · ·) BitVec.extractLsb'_append_eq_left) BitVec.extractLsb'_append_eq_right

theorem decodeCommand16_precharge (b a : BitVec 4) : decodeCommand16 0xD9 (b ++ a) = some (.dcPrecharge b a) :=
  congr (congrArg (some <| Instr.dcPrecharge · ·) BitVec.extractLsb'_append_eq_left) BitVec.extractLsb'_append_eq_right

theorem decodeAddr_append (a : BitVec 7) (dir : Bool) :
    decodeAddr (a ++ BitVec.ofBool dir) = if dir then .addrRead a else .addrWrite a := by
  have hdir : (a ++ BitVec.ofBool dir).getLsbD 0 = dir := by
    rw [BitVec.getLsbD_append]
    cases dir <;> rfl
  have haddr : (a ++ BitVec.ofBool dir).extractLsb' 1 7 = a := BitVec.extractLsb'_append_eq_left
  rw [decodeAddr, hdir, haddr]

theorem decode_dcmd8 {c : Config} {b : Byte} {i : Instr} (h : decodeCommand8 c b = some i) (rest : List Byte) :
    decode c .dcmd8 (b :: rest) = .ok i rest := Decoded.ofOption_eq_ok_iff.mpr ⟨h, rfl⟩

theorem decode_dcmd16 {c : Config} {op arg : Byte} {i : Instr} (h : decodeCommand16 op arg = some i) (rest : List Byte) :
    decode c .dcmd16 (op :: arg :: rest) = .ok i rest := Decoded.ofOption_eq_ok_iff.mpr ⟨h, rfl⟩

/-- With the default parameters the bytes of every row are read as that row, whatever follows them. -/
theorem decode_encode (i : Instr) (rest : List Byte) :
    decode Config.standard i.format (encode Config.standard i ++ rest) = .ok i rest := by
  cases i with
  | addrWrite a => exact congrArg (Decoded.ok · rest) (decodeAddr_append a false)
  | addrRead a => exact congrArg (Decoded.ok · rest) (decodeAddr_append a true)
  | dcSetPage p => exact decode_dcmd8 (decodeCommand8_setPage p) rest
  | dcColLo l => exact decode_dcmd8 (decodeCommand8_colLo l) rest
  | dcColHi h => exact decode_dcmd8 (decodeCommand8_colHi h) rest
  | dcSegRemap g => exact decode_dcmd8 (decodeCommand8_segRemap g) rest
  | dcComScan d => exact decode_dcmd8 (decodeCommand8_comScan d) rest
  | dcAddrMode m => exact decode_dcmd16 (decodeCommand16_addrMode m) rest
  | dcMuxRatio r => exact decode_dcmd16 (decodeCommand16_muxRatio r) rest
  | dcDisplayOffset o => exact decode_dcmd16 (decodeCommand16_displayOffset o) rest
  | dcComPins a b => exact decode_dcmd16 (decodeCommand16_comPins a b) rest
  | dcOsc f d => exact decode_dcmd16 (decodeCommand16_osc f d) rest
  | dcPrecharge b a => exact decode_dcmd16 (decodeCommand16_precharge b a) rest
  | dcVcomh v => exact decode_dcmd16 (decodeCommand16_vcomh v) rest
  | dcChargePump e => exact decode_dcmd16 (decodeCommand16_chargePump e) rest
  | clear | decode | update | init | transact | streamPage | arm | tick => rfl
  | ctrlCmdSingle | ctrlCmdMulti | ctrlDataSingle | ctrlDataMulti => rfl
  | dcDisplayOff | dcContrast _ | dcDisplayRam | dcNormal | dcDisplayOn | run _ => rfl

/-! ### The statements about the tables -/

/-- Settles O1: the decoders evaluated. -/
theorem knownWordsDecode : Obligations.KnownWordsDecode := ⟨rfl, rfl, rfl, rfl, rfl, rfl, rfl⟩

/-- Settles O2, by the table of R91. -/
theorem hostCodesDecodeAndTheRestAreReserved : Obligations.HostCodesDecodeAndTheRestAreReserved := by
  intro c b rest
  rw [decode, decodeHostOp_eq_ite]
  simp only [Decoded.ofOption_ite]
  rfl

/-- Settles O3, row by row (`decode_encode`). -/
theorem decodingUndoesEncoding : Obligations.DecodingUndoesEncoding := decode_encode

/-- Settles O4, which holds of every configuration (`encode_of_decode`). -/
theorem encodingUndoesDecoding : Obligations.EncodingUndoesDecoding := fun _ _ _ _ => encode_of_decode

/-- Settles O5: K5 leaves the bits under the field zero (`Config.wf_iff`), so that the field is added. -/
theorem addressingCommandBytes : Obligations.AddressingCommandBytes := by
  intro c hw
  obtain ⟨-, -, hpage, hlo, hhi, -⟩ := (Config.wf_iff c).mp hw
  refine ⟨fun p => congrArg ([·]) (toNat_base_or_field (by decide) hpage p), fun x hx => ?_⟩
  have hx' : x < 128 := hx
  have lo : (BitVec.ofNat 4 (x % 16)).toNat = x % 16 := by rw [BitVec.toNat_ofNat]; omega
  have hi : (BitVec.ofNat 4 (x / 16)).toNat = x / 16 := by rw [BitVec.toNat_ofNat]; omega
  refine ⟨congrArg ([·]) ?_, congrArg ([·]) ?_, decide_eq_true (by omega)⟩
  · rw [toNat_base_or_field (by decide) hlo, lo]
  · rw [toNat_base_or_field (by decide) hhi, hi]

end Sys2Proof

namespace Sys2Proof.Machine

/-! ### The rows that run -/

theorem hostWrite_reservedCode {run : Instr → State → Host.Outcome State Fault Refusal} {v : Word} {s : State}
    (hm : s.hostMay = true) (h : decodeHostOp (v.setWidth 8) = none) :
    hostWrite run 0 v s = .refused (.reservedCode (v.setWidth 8)) := by
  simp [hostWrite, hm, Sys2Proof.decode, h, Decoded.ofOption]

/-- Settles O16: the line lands, and its code is no code of R91. -/
theorem stepRefusesAReservedCode : Obligations.StepRefusesAReservedCode := by
  intro s m code rest hw hi hb hs hcode
  have hcut : (code.setWidth 32).setWidth 8 = code := by simp
  rw [step_idle_line hw hi hb hs, landLine_write hs,
    hostWrite_reservedCode hi.hostMay_script (by rw [hcut]; exact decodeHostOp_eq_none_of_reserved hcode), hcut]

/-- A row of the two command formats runs by sending its bytes (R102). -/
theorem exec_command {i : Instr} (h : i.format = .dcmd8 ∨ i.format = .dcmd16) (s : State) :
    exec i s = sendCommand (encode s.cfg i) s := by
  cases i with
  | dcSetPage _ | dcColLo _ | dcColHi _ | dcDisplayOff | dcSegRemap _ | dcComScan _ => rfl
  | dcDisplayRam | dcNormal | dcDisplayOn => rfl
  | dcAddrMode _ | dcMuxRatio _ | dcDisplayOffset _ | dcComPins _ _ | dcContrast _ => rfl
  | dcOsc _ _ | dcPrecharge _ _ | dcVcomh _ | dcChargePump _ => rfl
  | _ => exact h.elim nofun nofun

/-- Where BUSY says whether SEQ is IDLE, going on where the engine was changes nothing. -/
theorem goOn_seq_self {s : State} (hb : s.busy = !s.seq.isEmpty) : goOn s.seq s = s := by
  rw [goOn, ← hb]

/-- One TRANSACT of 1 to 4 bytes that BUS answers, inside whatever the engine is doing. -/
theorem runTransaction_of_clear {bytes : List Byte} {s : State} (h : s.Clear) (hb : s.busy = !s.seq.isEmpty)
    (h1 : 1 ≤ bytes.length) (h4 : bytes.length ≤ 4) : runTransaction bytes s = .next (sent bytes s) := by
  have hsent : goOn s.seq (sent bytes s) = sent bytes s := goOn_seq_self hb
  have hreach := reaches_send h.answered h.1 (Nat.le_refl s.seq.length) h1 h4
  rw [hsent] at hreach
  have hfuel := s.fuel_ge
  exact hreach.drive_eq (Nat.le_refl _) (by omega)

theorem encode_length (c : Config) (i : Instr) : (encode c i).length = i.format.size := by
  cases i <;> rfl

/-- The control byte of R101 by the command's format. -/
theorem commandTransaction_encode (c : Config) {i : Instr} (h : i.format = .dcmd8 ∨ i.format = .dcmd16) :
    commandTransaction c (encode c i) =
      (if i.format = .dcmd8 then c.ctrlCmdSingle else c.ctrlCmdMulti) :: encode c i := by
  rw [commandTransaction, commandControl, encode_length]
  rcases h with h | h <;> rw [h] <;> rfl

/-- Settles O35: exec of the row is one TRANSACT of the bytes R101 and R102 say. -/
theorem aControllerCommandIsOneTransaction : Obligations.AControllerCommandIsOneTransaction := by
  intro s i hc hb hi
  refine ⟨_, rfl, ?_⟩
  have hlen : (encode s.cfg i).length ≤ 3 := by
    rw [encode_length]
    rcases hi with h | h <;> rw [h] <;> decide
  rw [exec_command hi, sendCommand, whenRunning_of_noFault hc.answered.fault, commandTransaction_encode _ hi,
    runTransaction_of_clear hc hb (by simp) (by rw [List.length_cons]; omega)]
  simp [sent, loadTx, transactionTrace]

/-- Settles O51: a run that fits is a fill of the framebuffer (`decodeRun_fits`), and a fill keeps its form. -/
theorem runWritesItsPixels : Obligations.RunWritesItsPixels := by
  intro s n hf hw hfit
  refine ⟨_, Memory.wf_fill hw (colorByte s.color) _ _ hfit, fun i => ?_, ?_⟩
  · rw [Memory.read_fill hw _ _ _ hfit]
    rfl
  · show execRun n s = _
    rw [execRun, whenRunning_of_noFault hf, decodeRun_fits hfit]
    simp [drawn, runsTotal]

end Sys2Proof.Machine
end

section
/-! Transport (40_bus_transport.md): the bus primitives and the three steps of BUS as steps of the machine, the rows of the
opcode table that a step runs inside an operation, and TRANSACT and STREAM_PAGE from HOST's request to their end, to their
verdict, or to the hold at which BUS leaves them. -/

namespace Sys2Proof

/-! ### The bytes of a controller command, read with any parameters that K5 admits -/

/-- A field put in a base whose bits under it are zero leaves the base in the bits above. -/
theorem base_or_field_and_mask {k : Nat} {base mask : Byte} (hmask : ~~~mask = (BitVec.allOnes k).setWidth 8)
    (hbase : base &&& ~~~mask = 0#8) (x : BitVec k) : (base ||| x.setWidth 8) &&& mask = base := by
  ext i hi
  have hlow := congrArg (BitVec.getLsbD · i) hbase
  have hbit := congrArg (BitVec.getLsbD · i) hmask
  simp only [BitVec.getLsbD_and, BitVec.getLsbD_not, BitVec.getLsbD_zero, BitVec.getLsbD_setWidth, BitVec.getLsbD_allOnes]
    at hlow hbit
  simp only [BitVec.getElem_or, BitVec.getElem_and, BitVec.getElem_setWidth]
  grind

/-- A byte whose bits above the field are one of the three bases, or that is a fixed row, is read as a row of DCMD8. -/
theorem exists_decodeCommand8_eq {c : Config} {b : Byte} (h : b &&& 0xF8#8 = c.cmdSetPage ∨ b &&& 0xF0#8 = c.cmdColLo ∨
    b &&& 0xF0#8 = c.cmdColHi ∨ (decodeFixedCommand b).isSome = true) : ∃ j, decodeCommand8 c b = some j := by
  rw [← Option.isSome_iff_exists]
  unfold decodeCommand8
  split
  · rfl
  split
  · rfl
  split
  · rfl
  · simp_all

/-- Where K5 holds, the byte of a row of format DCMD8 is read as a row (another one, where the bases make rows share it). -/
theorem encode_dcmd8 {c : Config} {i : Instr} (hw : c.wf = true) (hi : i.format = .dcmd8) :
    ∃ b, encode c i = [b] ∧ ∃ j, decodeCommand8 c b = some j := by
  obtain ⟨_, _, hpage, hlo, hhi, _⟩ := (Config.wf_iff c).mp hw
  have low3 {base : Byte} : base.toNat % 8 = 0 → base &&& 0x07#8 = 0#8 :=
    (byte_and_low_eq_zero_iff _ (k := 3) (by decide)).mpr
  have low4 {base : Byte} : base.toNat % 16 = 0 → base &&& 0x0F#8 = 0#8 :=
    (byte_and_low_eq_zero_iff _ (k := 4) (by decide)).mpr
  cases i with
  | dcSetPage p => exact ⟨_, rfl, exists_decodeCommand8_eq (.inl (base_or_field_and_mask rfl (low3 hpage) p))⟩
  | dcColLo l => exact ⟨_, rfl, exists_decodeCommand8_eq (.inr (.inl (base_or_field_and_mask rfl (low4 hlo) l)))⟩
  | dcColHi h => exact ⟨_, rfl, exists_decodeCommand8_eq (.inr (.inr (.inl (base_or_field_and_mask rfl (low4 hhi) h))))⟩
  | dcSegRemap g => exact ⟨_, rfl, exists_decodeCommand8_eq (.inr (.inr (.inr (by revert g; decide))))⟩
  | dcComScan d => exact ⟨_, rfl, exists_decodeCommand8_eq (.inr (.inr (.inr (by revert d; decide))))⟩
  | dcDisplayOff | dcDisplayRam | dcNormal | dcDisplayOn =>
    exact ⟨_, rfl, exists_decodeCommand8_eq (.inr (.inr (.inr rfl)))⟩
  | _ => cases hi

/-- The bytes of a row of format DCMD16 do not depend on the parameters, and are read as the row. -/
theorem encode_dcmd16 (c : Config) {i : Instr} (hi : i.format = .dcmd16) :
    ∃ op arg, encode c i = [op, arg] ∧ decodeCommand16 op arg = some i := by
  have hfixed : ∃ op arg, encode c i = [op, arg] ∧ encode Config.standard i = [op, arg] := by
    cases i with
    | dcAddrMode _ | dcMuxRatio _ | dcDisplayOffset _ | dcComPins _ _ | dcContrast _ => exact ⟨_, _, rfl, rfl⟩
    | dcOsc _ _ | dcPrecharge _ _ | dcVcomh _ | dcChargePump _ => exact ⟨_, _, rfl, rfl⟩
    | _ => cases hi
  obtain ⟨op, arg, hbytes, hstandard⟩ := hfixed
  have hread := decode_encode i []
  rw [List.append_nil, hi, hstandard] at hread
  exact ⟨op, arg, hbytes, (Decoded.ofOption_eq_ok_iff.mp hread).1⟩

/-- A transaction that is a controller command behind its control byte is read as a command of the same bytes. -/
theorem decodeTransaction_command {c : Config} {i : Instr} (hw : c.wf = true) (hi : i.format = .dcmd8 ∨ i.format = .dcmd16) :
    ∃ j, decodeTransaction c (commandTransaction c (encode c i)) = some j ∧ encode c j = encode c i := by
  obtain hi | hi := hi
  · obtain ⟨b, hbytes, j, hj⟩ := encode_dcmd8 hw hi
    refine ⟨j, ?_, (encode_of_decodeCommand8 hj).trans hbytes.symm⟩
    simp [decodeTransaction, hbytes, commandTransaction, hj, encode_of_decodeCommand8 hj]
  · obtain ⟨op, arg, hbytes, hread⟩ := encode_dcmd16 c hi
    refine ⟨i, ?_, rfl⟩
    simp [decodeTransaction, hbytes, commandTransaction, hread]

end Sys2Proof

namespace Sys2Proof.Machine

/-! ### The address byte and the control bytes -/

/-- The address byte as the number R95 gives it. -/
theorem addressByte_eq_ofNat (c : Config) : addressByte c = BitVec.ofNat 8 (2 * c.devAddr.toNat) := by
  rw [← addressByte_toNat, BitVec.ofNat_toNat, BitVec.setWidth_eq]

/-- Settles O29: DEV_ADDR is the address the row may have, and what it does is bus_addr. -/
theorem addrWriteSendsTheAddressByte : Obligations.AddrWriteSendsTheAddressByte := by
  intro s hf
  show execAddrWrite s.cfg.devAddr s = _
  rw [execAddrWrite, if_pos rfl, whenRunning_of_noFault hf, busAddr, addressByte_eq_ofNat]

/-- Settles O30: ADDR_READ has no other branch, and ADDR_WRITE asks for DEV_ADDR first of all. -/
theorem otherAddressBytesAreRefused : Obligations.OtherAddressBytesAreRefused :=
  fun _ _ => ⟨rfl, fun ha => if_neg ha⟩

/-- A control byte goes out by bus_byte where no verdict stands. -/
theorem sendControl_of_noFault {s : State} (hf : s.fault = none) (b : Byte) :
    sendControl b s = .next (busByte b s.seq s) := by
  rw [sendControl, whenRunning_of_noFault hf]

/-- Settles O31: each of the four rows sends its own parameter. -/
theorem controlBytesAreSentAsDataBytes : Obligations.ControlBytesAreSentAsDataBytes := by
  intro s hf e he
  simp only [List.mem_cons, List.not_mem_nil, or_false] at he
  obtain rfl | rfl | rfl | rfl := he <;> exact sendControl_of_noFault hf _

/-! ### The holds -/

/-- A BUS that always answers is not used up. -/
theorem State.DevicePresent.used {s : State} (h : s.DevicePresent) : s.device.used = s.device := by
  rw [show s.device = .present from h, Device.used]

theorem State.DevicePresent.busReady {s : State} (h : s.DevicePresent) (hb : s.grantEnabled = true ∨ s.await ≠ .none) :
    s.busReady = true := by
  simpa [State.busReady, show s.device = .present from h, Device.willing] using hb

theorem State.grantEnabled_iff (s : State) : s.grantEnabled = true ↔ s.startReq = true ∧ s.inXact = false := by
  simp [State.grantEnabled]

/-- Settles O27: BUS has the step, which is the branch of `busStep` for what it is asked. -/
theorem busLiftsTheHolds : Obligations.BusLiftsTheHolds := by
  intro s hw hu hr hdev
  refine ⟨fun hg ha => ?_, fun hg ha => ?_, fun hg ha => ?_⟩
  all_goals rw [← s.grantEnabled_iff] at hg
  · rw [step_bus hw hu hr (hdev.busReady (.inl hg)), busStep, if_pos hg, hdev.used]
  · rw [step_bus hw hu hr (hdev.busReady (.inr (by simp [ha]))), busStep, if_neg hg, ha, hdev.used]
  · rw [step_bus hw hu hr (hdev.busReady (.inr (by simp [ha]))), busStep, if_neg hg, ha, hdev.used]

/-- Settles O28: none of these points is a row of the opcode table, so the step is the engine's own. -/
theorem theEngineGoesOnWhenAHoldIsLifted : Obligations.TheEngineGoesOnWhenAHoldIsLifted := by
  intro s w k hw hu hf
  have engineStep {p : Work} (hs : s.seq = p :: w :: k) (hr : s.engineReady = true) (hp : fetch s = none) :
      step s = engineAt p (w :: k) s := by
    rw [step_engine hw hu hr hp, engine, hs]
  refine ⟨fun hs => ?_, fun hs hc => ?_, fun hs hc => ?_, fun hs hc => ?_, fun hs => ?_⟩
  · exact engineStep hs (by simp [State.engineReady, hf, hs]) (by simp [fetch, hs])
  · exact (engineStep hs (by simp [State.engineReady, hf, hs, hc]) (by simp [fetch, hs])).trans (if_pos hc)
  · exact (engineStep hs (by simp [State.engineReady, hf, hs, hc]) (by simp [fetch, hs])).trans (if_pos hc)
  · exact (engineStep hs (by simp [State.engineReady, hf, hs, hc]) (by simp [fetch, hs])).trans (if_pos hc)
  · exact engineStep hs (by simp [State.engineReady, hf, hs]) (by simp [fetch, hs])

/-! ### The rows a step runs inside an operation -/

/-- Inside an operation a step, in which no line is due, runs the fetched instruction on the state past its point. TICK alone
starts at its point. -/
theorem step_fetched {s : State} {i : Instr} (hw : s.cfg.wf = true) (hd : s.lineDue = false) (hr : s.engineReady = true)
    (hf : fetch s = some i) (hi : i ≠ .tick) : step s = exec i (enter (countdown s)) := by
  have hturn : step s = operationTurn exec s := by simp [step, turn, hw, hd, hr]
  rw [hturn, operationTurn, hf]
  simp

/-- No instruction is fetched at a hold or from an idle engine. -/
theorem engineReady_of_fetch {s : State} {i : Instr} (hf : s.fault = none) (h : fetch s = some i) :
    s.engineReady = true := by
  unfold State.engineReady
  rw [hf]
  split <;> rename_i hs
  case h_5 => rfl
  all_goals simp [fetch, hs] at h

/-- Rows of the two command formats that have the same bytes do the same. -/
theorem exec_eq_of_encode_eq {i j : Instr} {s : State} (hi : i.format = .dcmd8 ∨ i.format = .dcmd16)
    (hj : j.format = .dcmd8 ∨ j.format = .dcmd16) (h : encode s.cfg j = encode s.cfg i) : exec j s = exec i s := by
  rw [exec_command hj, exec_command hi, h]

/-- Settles O17: at each of the points a row is fetched, and `enter` moves the engine past the point. In INIT_SEQ it is a row of
the same bytes. -/
theorem stepRunsTheFetchedInstruction : Obligations.StepRunsTheFetchedInstruction := by
  intro s k hw hd hf
  have runs {i : Instr} {q : List Work} (hfetch : fetch s = some i) (hi : i ≠ .tick)
      (he : enter (countdown s) = { countdown s with seq := q }) : step s = exec i { countdown s with seq := q } := by
    rw [step_fetched hw hd (engineReady_of_fetch hf hfetch) hfetch hi, he]
  refine ⟨fun hs => ?_, fun hs => ?_, fun hs hptr hlen i hdec => ?_, fun hs hpage => ?_, fun hs => ?_, fun hs => ?_,
    fun hs i hi ht => ?_⟩
  · exact runs (by simp [fetch, hs]) nofun (by simp [enter, countdown_seq, hs])
  · exact runs (by simp [fetch, hs]) nofun (by simp [enter, countdown_seq, hs])
  · have hrow : decodeCtrl s.cfg s.txbuf.b0 = some i := (Decoded.ofOption_eq_ok_iff.mp hdec).1
    have hpos : 0 < s.txlen.toNat := Nat.pos_of_ne_zero fun h => hlen (BitVec.eq_of_toNat_eq h)
    refine runs (by simp [fetch, hs, hptr, hpos, hrow]) ?_ (by simp [enter, countdown_seq, hs])
    rintro rfl
    exact absurd (decodeCtrl_format hrow) nofun
  · rw [BitVec.ofNat_toNat]
    exact runs (by simp only [fetch, hs, if_pos hpage]) nofun (by simp [enter, countdown_seq, hs])
  · exact runs (by simp [fetch, hs]) nofun (by simp [enter, countdown_seq, hs])
  · exact runs (by simp [fetch, hs]) nofun (by simp [enter, countdown_seq, hs])
  · rw [← commandTransaction_encode _ hi] at ht
    obtain ⟨j, hj, hbytes⟩ := decodeTransaction_command hw hi
    have hrow := decodeTransaction_format hj
    have hcfg : (countdown s).cfg = s.cfg := (countdown_grows s).cfg
    refine (runs (i := j) (by simp [fetch, hs, ht, hj]) ?_ (by simp [enter, countdown_seq, hs])).trans
      (exec_eq_of_encode_eq hi hrow (by simpa only [hcfg] using hbytes))
    rintro rfl
    exact hrow.elim nofun nofun

/-! ### TRANSACT and STREAM_PAGE as host operations -/

/-- A host operation that goes on with nothing answers the state it has reached, SEQ and BUSY those of the idle block. -/
theorem hostOp_returns {w : Work} {n : Nat} {s t : State} (hi : s.Idle) (h : Reaches 0 n (begin w s) (goOn [] t))
    (hn : n ≤ 8192) (hs : t.seq = s.seq) (hb : t.busy = s.busy) : hostOp w s = .next t := by
  have ⟨hseq, hbusy, _⟩ := hi
  have hfuel := s.fuel_ge
  rw [hostOp_ends hi.hostMay h rfl (by omega), goOn_idle (hs.trans hseq) (hb.trans hbusy)]

/-- Settles O32: TRANSACT runs to its end (`reaches_transact`). -/
theorem transactSendsItsBuffer : Obligations.TransactSendsItsBuffer := by
  intro s hi hc h1 h4
  have hlen : s.txlen.toNat ≤ 4 := h4
  have hreach := reaches_transact (k := []) hc.answered hc.1 (Nat.zero_le _) h1 h4
  refine (hostOp_returns hi hreach (by omega) rfl rfl).trans ?_
  simp [transactionTrace, TxBuf.bytes]

/-- An operation whose first step raises a verdict stops there, and nothing else has changed. -/
theorem hostOp_stops_at_once {w : Work} {code : FaultCode} {s : State} (hi : s.Idle) (hu : s.undisturbed = true)
    (hq : s.busQuiet = true) (hr : (begin w s).engineReady = true)
    (he : engine (begin w s) = .next (raiseFault code (begin w s))) :
    hostOp w s = .next { s with seq := [w], busy := true, fault := some code } := by
  have ⟨_, _, _, hf⟩ := hi
  have hfuel := s.fuel_ge
  rw [hostOp_stops hi.hostMay (reaches_engine (by simp) hu hr he) (by omega) hu hq rfl rfl rfl (by simp [hf])]
  simp [raiseFault, begin, hf]

/-- Settles O33: the test of TXLEN is TRANSACT's first step. -/
theorem transactOfIllegalLengthFaults : Obligations.TransactOfIllegalLengthFaults := by
  intro s hi hu hq hlen
  have ⟨_, _, _, hf⟩ := hi
  have hbad : s.txlen.toNat < 1 ∨ txbufMax < s.txlen.toNat := hlen.imp_left fun h => by simp [h]
  exact hostOp_stops_at_once hi hu hq (by simp [State.engineReady, hf]) (if_pos hbad)

/-- STREAM_PAGE issued by HOST is the operation on the page of ARG_PAGE (10_state.md R45). -/
theorem execStreamPage_eq_hostOp (s : State) :
    execStreamPage s = hostOp .streamPage { s with page := BitVec.ofNat 4 s.argPage.toNat } := by
  rw [BitVec.ofNat_toNat]
  rfl

theorem pageTrace_eq (c : Config) (m : Memory) (p : Nat) : pageTrace c m p =
    [.start, .addr (addressByte c), .data c.ctrlDataMulti] ++
      ((List.range displayW).map fun i => .data (m.read (p * displayW + i))) ++ [.stop] := by
  simp [pageTrace, transactionTrace, pageBytes]

/-- Settles O36: STREAM_PAGE of the page of ARG_PAGE runs to its end (`reaches_streamPage`). -/
theorem streamPageSendsThePage : Obligations.StreamPageSendsThePage := by
  intro s hi hc hinit
  have hpage : (BitVec.ofNat 4 s.argPage.toNat).toNat = s.argPage.toNat := by
    rw [BitVec.toNat_ofNat]; omega
  have hidle : State.Idle { s with page := BitVec.ofNat 4 s.argPage.toNat } := hi
  have hclear : State.Clear { s with page := BitVec.ofNat 4 s.argPage.toNat } := hc
  have hreach := reaches_streamPage (k := []) hclear.answered hclear.1 (Nat.zero_le _) hinit
    (by rw [hpage]; exact s.argPage.isLt)
  refine (execStreamPage_eq_hostOp s).trans <| (hostOp_returns hidle hreach (by omega) rfl rfl).trans ?_
  simp only [hpage, pageTrace_eq, List.append_assoc]

/-- Settles O37: the test of INIT_DONE is the first step of both. -/
theorem pageOperationsBeforeInitFault : Obligations.PageOperationsBeforeInitFault := by
  intro s hi hu hq hinit
  have ⟨_, _, _, hf⟩ := hi
  have hnot : ¬ s.initDone = true := by simp [hinit]
  refine ⟨(execStreamPage_eq_hostOp s).trans ?_, ?_⟩
  · exact hostOp_stops_at_once (s := { s with page := BitVec.ofNat 4 s.argPage.toNat }) hi hu hq
      (by simp [State.engineReady, hf]) (if_neg hnot)
  · exact hostOp_stops_at_once hi hu hq (by simp [State.engineReady, hf]) (if_neg hnot)

/-! ### A BUS that stops answering (60_exceptions.md R240)

TRANSACT stands at its `j`-th hold, counted from 0, once BUS has taken `j` steps: H_START, H_ADDR, then an H_BTC for each byte. -/

/-- At a hold the engine has no step. -/
theorem engineReady_of_atHold {s : State} (h : s.atHold = true) : s.engineReady = false := by
  unfold State.atHold at h
  unfold State.engineReady
  split at h
  case h_4 => cases h
  all_goals rename_i hs; simp_all

/-- The hold at which BUS owes the answer `a`; it owes a start where AWAIT is NONE. -/
def Await.hold : Await → Work
  | .none => .waitStart
  | .addr => .waitAddr
  | .byte => .waitBtc

/-- The engine at the hold for `a`, with the condition still false, the wire trace `w` and `q` to do behind the hold. -/
def waiting (a : Await) (w : List WireEvent) (q : List Work) (s : State) : State :=
  { s with wire := w, startReq := a == .none, fStart := false, fAddr := false, fBtc := false, inXact := a != .none,
           await := a, seq := a.hold :: q, busy := true }

/-- BUS answers, and the engine leaves the hold. -/
theorem reaches_answer {depth : Nat} {x : Work} {k : List Work} {s : State} (hd : depth ≤ k.length)
    (hwill : s.device.willing = true) (hu : s.undisturbed = true) (hf : s.fault = none) (a : Await)
    (w : List WireEvent) :
    Reaches depth 2 (waiting a w (x :: k) s)
      (inside { s with device := s.device.used } (if a = .none then w ++ [.start] else w) (a == .none) (a == .addr)
        (a == .byte) (x :: k)) := by
  have hr : (waiting a w (x :: k) s).engineReady = false := by
    cases a <;> simp [waiting, State.engineReady, Await.hold]
  have hb : (waiting a w (x :: k) s).busReady = true := by
    cases a <;> simpa [waiting, State.busReady, State.grantEnabled] using hwill
  refine (reaches_bus (s := waiting a w (x :: k) s) (by simp [waiting]; omega) hu hr hb).trans ?_
  cases a <;> refine reaches_engine (by simp [waiting, busStep, State.grantEnabled, Await.hold]; omega) hu ?_ rfl
  all_goals simp [waiting, busStep, State.grantEnabled, State.engineReady, Await.hold, hf]

/-- The transaction TRANSACT sends, with a legal TXLEN (40_bus_transport.md R140). -/
def State.transactTrace (s : State) : List WireEvent := transactionTrace s.cfg (s.txbuf.bytes s.txlen.toNat)

/-- TRANSACT at its `j`-th hold. -/
def transactHold (s : State) : Nat → State
  | 0 => waiting .none s.wire [.addr, .txFirst, .stop] s
  | 1 => waiting .addr (s.wire ++ s.transactTrace.take 2) [.txFirst, .stop] s
  | p + 2 => waiting .byte (s.wire ++ s.transactTrace.take (p + 3)) [.txNext, .stop]
      { s with txptr := BitVec.ofNat 3 p }

theorem transactHold_wire (s : State) : ∀ j, (transactHold s j).wire =
    s.wire ++ s.transactTrace.take (if j = 0 then 0 else j + 1)
  | 0 => (List.append_nil _).symm
  | 1 => rfl
  | _ + 2 => rfl

theorem transactHold_atHold (s : State) : ∀ j, (transactHold s j).atHold = true
  | 0 => rfl
  | 1 => rfl
  | _ + 2 => rfl

theorem transactHold_busy (s : State) : ∀ j, (transactHold s j).busy = true
  | 0 => rfl
  | 1 => rfl
  | _ + 2 => rfl

theorem transactHold_device (s : State) : ∀ j, (transactHold s j).device = s.device
  | 0 => rfl
  | 1 => rfl
  | _ + 2 => rfl

theorem transactHold_script (s : State) : ∀ j, (transactHold s j).script = s.script
  | 0 => rfl
  | 1 => rfl
  | _ + 2 => rfl

/-- Behind S and the address byte the trace goes on with the bytes of TXBUF in order (30_encoding.md R93). -/
theorem State.transactTrace_take_byte {s : State} {p : Nat} {b : Byte} (h : (s.txbuf.bytes s.txlen.toNat)[p]? = some b) :
    s.transactTrace.take (p + 3) = s.transactTrace.take (p + 2) ++ [.data b] := by
  have hlt : p < ((s.txbuf.bytes s.txlen.toNat).map WireEvent.data).length := by
    simpa using (List.getElem?_eq_some_iff.mp h).1
  have hevent : s.transactTrace[p + 2]? = some (.data b) := by
    show ((s.txbuf.bytes s.txlen.toNat).map WireEvent.data ++ [.stop])[p]? = _
    rw [List.getElem?_append_left hlt, List.getElem?_map, h]
    rfl
  rw [List.take_add_one, hevent]
  rfl

/-- TRANSACT's loop at the byte `p` of TXBUF, the trace before it on the wires: the byte goes out, up to its hold. -/
theorem reaches_byteHold {s : State} {p : Nat} (hu : s.undisturbed = true) (hf : s.fault = none)
    (hp : p < s.txlen.toNat) (h4 : s.txlen.toNat ≤ 4) (fa fb : Bool) :
    Reaches 0 1
      (inside { s with txptr := BitVec.ofNat 3 p }
        (s.wire ++ s.transactTrace.take (p + 2)) false fa fb [.txLoop, .stop])
      (transactHold s (p + 2)) := by
  obtain ⟨b, hb, hdrop⟩ := s.txbuf.bytes_drop hp h4
  have hbyte : (s.txbuf.bytes s.txlen.toNat)[p]? = some b := by rw [← List.head?_drop, hdrop]; rfl
  have hptr : (BitVec.ofNat 3 p).toNat = p := by rw [BitVec.toNat_ofNat]; omega
  refine reaches_engine (by simp [inside]) hu (by simp [State.engineReady, inside, hf]) ?_
  simp only [engine, engineAt, inside, hptr, if_pos hp, hb, transactHold, waiting, State.transactTrace_take_byte hbyte]
  simp [busByte, Await.hold]

/-- From the write of CMD to H_START. -/
theorem reaches_firstHold {s : State} (hu : s.undisturbed = true) (hf : s.fault = none) (hq : s.busQuiet = true)
    (h1 : 1 ≤ s.txlen.toNat) (h4 : s.txlen.toNat ≤ txbufMax) : Reaches 0 2 (begin .transact s) (transactHold s 0) := by
  have hlegal : ¬ (s.txlen.toNat < 1 ∨ txbufMax < s.txlen.toNat) := by omega
  have test : Reaches 0 1 (begin .transact s) (goOn [.start, .addr, .txFirst, .stop] s) :=
    reaches_engine (by simp) hu (by simp [State.engineReady, hf]) (if_neg hlegal)
  refine test.trans (reaches_engine (by simp) hu (by simp [State.engineReady, hf]) ?_)
  obtain ⟨hreq, hstart, haddr, hbtc, hxact, hawait⟩ := s.busQuiet_iff.mp hq
  simp [engine, engineAt, busStart, goOn, transactHold, waiting, Await.hold, *]

/-- One step of BUS brings TRANSACT to its next hold. -/
theorem reaches_nextHold {s : State} {j : Nat} (hwill : s.device.willing = true) (hu : s.undisturbed = true)
    (hf : s.fault = none) (hj : j + 1 < 2 + s.txlen.toNat) (h4 : s.txlen.toNat ≤ 4) :
    ∃ n ≤ 4, Reaches 0 n (transactHold s j) (transactHold { s with device := s.device.used } (j + 1)) := by
  match j with
  | 0 =>
    refine ⟨3, by decide, (reaches_answer (Nat.zero_le _) hwill hu hf .none s.wire).trans ?_⟩
    refine reaches_engine (by simp [inside]) hu (by simp [State.engineReady, inside, hf]) ?_
    simp [engine, engineAt, busAddr, inside, transactHold, waiting, Await.hold, State.transactTrace, transactionTrace]
  | 1 =>
    have hp : 0 < s.txlen.toNat := by omega
    have byte := reaches_byteHold (s := { s with device := s.device.used }) hu hf hp h4 true false
    refine ⟨4, by decide, (reaches_answer (Nat.zero_le _) hwill hu hf .addr _).trans (Reaches.trans (n := 1) ?_ byte)⟩
    exact reaches_engine (by simp [inside]) hu (by simp [State.engineReady, inside, hf]) rfl
  | p + 2 =>
    have hp : p + 1 < s.txlen.toNat := by omega
    have byte := reaches_byteHold (s := { s with device := s.device.used }) hu hf hp h4 false true
    have answer := reaches_answer (depth := 0) (x := .txNext) (k := [.stop]) (s := { s with txptr := BitVec.ofNat 3 p })
      (Nat.zero_le _) hwill hu hf .byte (s.wire ++ s.transactTrace.take (p + 3))
    refine ⟨4, by decide, answer.trans (Reaches.trans (n := 1) ?_ byte)⟩
    refine reaches_engine (by simp [inside]) hu (by simp [State.engineReady, inside, hf]) ?_
    simp [engine, engineAt, inside, goOn, State.transactTrace, BitVec.ofNat_add]

/-- The first `j` of the `n` steps BUS takes bring TRANSACT to its hold `j`. -/
theorem reaches_transactHold {s : State} {n : Nat} (hdev : s.device = .answers n) (hu : s.undisturbed = true)
    (hf : s.fault = none) (hq : s.busQuiet = true) (h1 : 1 ≤ s.txlen.toNat) (h4 : s.txlen.toNat ≤ txbufMax) :
    ∀ j ≤ n, j < 2 + s.txlen.toNat →
      ∃ m ≤ 2 + 4 * j, Reaches 0 m (begin .transact s) (transactHold { s with device := .answers (n - j) } j) := by
  intro j
  induction j with
  | zero =>
    intro _ _
    have hs : ({ s with device := .answers (n - 0) } : State) = s := by rw [Nat.sub_zero, ← hdev]
    exact ⟨2, Nat.le_refl _, hs ▸ reaches_firstHold hu hf hq h1 h4⟩
  | succ j ih =>
    intro hn hlt
    obtain ⟨m, hm, before⟩ := ih (by omega) (by omega)
    obtain ⟨l, hl, next⟩ := reaches_nextHold (s := { s with device := .answers (n - j) }) (j := j)
      (decide_eq_true (by omega)) hu hf hlt h4
    exact ⟨l + m, by omega, before.trans next⟩

/-- Settles O34: BUS has taken its `n` steps, and TRANSACT stands at its hold `n` with nothing that can move. -/
theorem transactHangsWhereBusStops : Obligations.TransactHangsWhereBusStops := by
  intro s n hi hu hq hdev h1 h4 hn
  have ⟨_, _, _, hf⟩ := hi
  obtain ⟨m, hm, hreach⟩ := reaches_transactHold hdev hu hf hq h1 h4 n (Nat.le_refl n) hn
  rw [Nat.sub_self] at hreach
  have hhold := transactHold_atHold { s with device := .answers 0 } n
  have hbus : (transactHold { s with device := .answers 0 } n).busReady = false := by
    simp [State.busReady, transactHold_device, Device.willing]
  have hquiet : (transactHold { s with device := .answers 0 } n).undisturbed = true := by
    simpa only [State.undisturbed, transactHold_script] using hu
  have hfuel := s.fuel_ge
  have hlen : s.txlen.toNat ≤ 4 := h4
  refine ⟨_, ?_, transactHold_busy _ _, hhold, hbus, transactHold_wire _ _⟩
  show hostOp .transact s = _
  rw [hostOp, if_pos hi.hostMay, runOp]
  exact hreach.drive_stuck hquiet (engineReady_of_atHold hhold) hbus (by omega)

end Sys2Proof.Machine
end

section
/-! The display driver (41_display_driver.md): INIT, UPDATE and CLEAR as host operations, and the counts of an UPDATE's trace (R169). -/

namespace Sys2Proof.Machine

/-! ### INIT -/

/-- INIT (R161) of an accepted configuration, from its first step to its end. -/
theorem reaches_init {depth : Nat} {k : List Work} {s : State} (h : s.Clear) (hd : depth ≤ k.length) (hw : s.cfg.wf = true)
    (hi : s.initDone = false) :
    ∃ n ≤ 2 + 28 * s.cfg.initSeq.length, Reaches depth n (goOn (.init :: k) s)
      (goOn k { transactionsSent s.cfg.initSeq { s with initptr := 0 } with initDone := true }) := by
  obtain ⟨_, _, _, _, _, hseq⟩ := (Config.wf_iff _).mp hw
  obtain ⟨hdev, hu, hf⟩ := h.answered
  have first : Reaches depth 1 (goOn (.init :: k) s) (goOn (.initLoop :: k) { s with initptr := 0 }) := by
    refine reaches_engine (by simp; omega) hu (by simp [State.engineReady, hf]) ?_
    exact (if_neg (by simp [hi])).trans rfl
  obtain ⟨n, hn, loop⟩ := reaches_initLoop hd s.cfg.initSeq { s with initptr := 0 } ⟨hdev, hu, hf⟩ h.1 rfl
    fun t ht => ⟨Nat.one_le_iff_ne_zero.mpr (hseq t ht).1, (hseq t ht).2⟩
  exact ⟨n + 1, by omega, first.trans loop⟩

/-- Settles O38: INIT runs to its end (`reaches_init`), and `transactionsSent_eq` says what its transactions leave. -/
theorem initSendsTheSequence : Obligations.InitSendsTheSequence := by
  intro s hw hi hc hinit
  have ⟨hseq, hbusy, _⟩ := hi
  obtain ⟨n, hn, hreach⟩ := reaches_init (k := []) hc (Nat.zero_le _) hw hinit
  have hfuel : n ≤ s.fuel := by unfold State.fuel; omega
  refine (hostOp_ends hi.hostMay hreach rfl hfuel).trans ?_
  rw [transactionsSent_eq, Nat.zero_add]
  exact congrArg _ (goOn_idle hseq hbusy)

/-- Settles O39: the trace of `initSendsTheSequence` with the default INIT_SEQ written out. -/
theorem theDefaultInitTrace : Obligations.TheDefaultInitTrace := by
  intro s hcfg hi hc hinit
  have hw : s.cfg.wf = true := by rw [hcfg]; decide
  refine ⟨_, _, initSendsTheSequence s hw hi hc hinit, rfl, rfl, ?_⟩
  rw [hcfg]
  exact ⟨rfl, rfl, rfl, rfl, rfl⟩

/-- Settles O40: the test of INIT_DONE is INIT's first step. -/
theorem aSecondInitFaults : Obligations.ASecondInitFaults := by
  intro s hi hu hq hinit
  have ⟨_, _, _, hf⟩ := hi
  exact hostOp_stops_at_once hi hu hq (by simp [State.engineReady, hf]) (if_pos hinit)

/-! ### CLEAR -/

/-- Settles O44: CLEAR is one step, and the framebuffer that lists nothing reads as 0x00 everywhere. -/
theorem clearZeroesTheFramebuffer : Obligations.ClearZeroesTheFramebuffer := by
  intro s hi hu
  have ⟨_, _, _, hf⟩ := hi
  have hreach : Reaches 0 1 (begin .clear s) (goOn [] (clearFb s)) :=
    reaches_engine (by simp) hu (by simp [State.engineReady, hf]) rfl
  exact ⟨[], Memory.wf_nil, fun i _ => Memory.read_nil i, hostOp_returns hi hreach (by decide) rfl rfl⟩

/-! ### UPDATE -/

/-- UPDATE as a host operation, with its trace named. -/
theorem exec_update {s : State} (hi : s.Idle) (hc : s.Clear) (hinit : s.initDone = true) :
    exec .update s = .next (pageSent 8 (s.wire ++ updateTrace s.cfg s.fb) s) :=
  hostOp_returns hi (reaches_update (k := []) hc.answered hc.1 (Nat.zero_le _) hinit) (by decide) rfl rfl

/-- Settles O41: UPDATE runs to its end (`exec_update`), and its trace is the pages' in order. -/
theorem updateSendsThePagesInOrder : Obligations.UpdateSendsThePagesInOrder :=
  fun _ hi hc hinit => exec_update hi hc hinit

section
variable {q : WireEvent → Bool} (ha : ∀ b, q (.addr b) = q (.addr 0)) (hd : ∀ b, q (.data b) = q (.data 0))
include ha hd

/-- How many events of a transaction have a property that depends on nothing but which of S, A, D and P an event is. -/
theorem countP_transactionTrace (c : Config) (bytes : List Byte) : (transactionTrace c bytes).countP q =
    (q .start).toNat + (q (.addr 0)).toNat + bytes.length * (q (.data 0)).toNat + (q .stop).toNat := by
  have hbytes : (bytes.map WireEvent.data).countP q = bytes.length * (q (.data 0)).toNat := by
    rw [List.countP_map, show q ∘ WireEvent.data = fun _ => q (.data 0) from funext hd]
    cases q (.data 0) <;> simp
  simp only [transactionTrace, List.countP_cons, List.countP_append, List.countP_nil, hbytes, ha, Bool.toNat, cond_eq_ite]
  omega

/-- The same of an UPDATE's trace (R169): for each page three transactions of two bytes and one of 129. -/
theorem countP_updateTrace (c : Config) (m : Memory) : (updateTrace c m).countP q =
    32 * (q .start).toNat + 32 * (q (.addr 0)).toNat + 1080 * (q (.data 0)).toNat + 32 * (q .stop).toNat := by
  have hpage (p : Nat) : (updatePageTrace c m p).countP q =
      4 * (q .start).toNat + 4 * (q (.addr 0)).toNat + 135 * (q (.data 0)).toNat + 4 * (q .stop).toNat := by
    simp only [updatePageTrace, pageTrace, List.countP_append, countP_transactionTrace ha hd, pageBytes, List.length_cons,
      List.length_nil, List.length_map, List.length_range, displayW]
    omega
  rw [updateTrace, List.countP_flatMap, show List.countP q ∘ updatePageTrace c m = fun _ => _ from funext hpage,
    List.map_const', List.sum_replicate_nat, List.length_range]
  simp only [pageCount]
  omega

end

/-- `n` rows of `w` indices, one after another, are the indices in increasing order. -/
theorem range_flatMap_row (w n : Nat) :
    (List.range n).flatMap (fun p => (List.range w).map (p * w + ·)) = List.range (n * w) := by
  induction n with
  | zero => simp
  | succ n ih => simp [List.range_succ, ih, Nat.succ_mul, List.range_add]

/-- The bytes of the eight pages, one after another, are FB in increasing index order (20_memory.md R61). -/
theorem flatMap_pageBytes (m : Memory) : (List.range pageCount).flatMap (pageBytes m) = (List.range fbSize).map m.read := by
  rw [show fbSize = pageCount * displayW from rfl, ← range_flatMap_row, List.map_flatMap]
  simp only [List.map_map]
  rfl

/-- Settles O42: the counts are `countP_updateTrace` at five properties. -/
theorem anUpdateIs32Transactions : Obligations.AnUpdateIs32Transactions := by
  intro s hi hc hinit
  refine ⟨_, _, exec_update hi hc hinit, rfl, rfl, ?_, ?_, ?_, ?_, ?_, flatMap_pageBytes s.fb⟩
  all_goals exact countP_updateTrace (fun _ => rfl) (fun _ => rfl) _ _

end Sys2Proof.Machine
end

section
/-! The device of R188 (41_display_driver.md) and the traces of INIT and UPDATE (R171, R175, R187): the three addressing commands
read with any parameters whose bases differ, a command's transaction and a page's as one change of the device each, and from these
what an UPDATE leaves in the display RAM and INIT in MODE and ON. -/

namespace Sys2Proof

/-! ### The addressing commands (30_encoding.md R103 to R105) -/

/-- A field put in a base whose bits under it are zero is read back. -/
theorem extract_base_or_field {base : Byte} {k : Nat} (hk : k ≤ 8) (hbase : base.toNat % 2 ^ k = 0) (x : BitVec k) :
    (base ||| x.setWidth 8).extractLsb' 0 k = x := by
  refine BitVec.eq_of_toNat_eq ?_
  rw [BitVec.extractLsb'_toNat, toNat_base_or_field hk hbase, Nat.shiftRight_zero, Nat.add_mod, hbase, Nat.zero_add,
    Nat.mod_mod, Nat.mod_eq_of_lt x.isLt]

/-- Of a base whose bits under a field are zero, the bits above the field are all. -/
theorem base_and_mask {base mask : Byte} {k : Nat} (hk : k ≤ 8) (hmask : ~~~mask = (BitVec.allOnes k).setWidth 8)
    (hbase : base.toNat % 2 ^ k = 0) : base &&& mask = base := by
  have hones : (BitVec.allOnes k).setWidth 8 = BitVec.ofNat 8 (2 ^ k - 1) := BitVec.eq_of_toNat_eq (by simp)
  have hlow : base &&& ~~~mask = 0#8 := by rw [hmask, hones, byte_and_low_eq_zero_iff base hk, hbase]
  simpa using base_or_field_and_mask hmask hlow 0#k

section
variable {c : Config} (hw : c.wf = true)
include hw

theorem decodeCommand8_cmdSetPage (p : BitVec 3) :
    decodeCommand8 c (c.cmdSetPage ||| p.setWidth 8) = some (.dcSetPage p) := by
  obtain ⟨_, _, hpage, _⟩ := (Config.wf_iff c).mp hw
  have hlow : c.cmdSetPage &&& 0x07#8 = 0#8 := (byte_and_low_eq_zero_iff _ (k := 3) (by decide)).mpr hpage
  rw [decodeCommand8, if_pos (base_or_field_and_mask rfl hlow p), extract_base_or_field (by decide) hpage]

theorem decodeCommand8_cmdColLo (h : c.cmdSetPage ≠ c.cmdColLo) : decodeCommand8 c c.cmdColLo = some (.dcColLo 0#4) := by
  obtain ⟨_, _, _, hlo, _⟩ := (Config.wf_iff c).mp hw
  have hpage : c.cmdColLo &&& 0xF8#8 = c.cmdColLo := base_and_mask (k := 3) (by decide) rfl (by omega)
  have hcol : c.cmdColLo &&& 0xF0#8 = c.cmdColLo := base_and_mask (k := 4) (by decide) rfl hlo
  have hfield : c.cmdColLo.extractLsb' 0 4 = 0#4 := by simpa using extract_base_or_field (k := 4) (by decide) hlo 0
  rw [decodeCommand8, hpage, hcol, if_neg h.symm, if_pos rfl, hfield]

theorem decodeCommand8_cmdColHi (h : c.cmdSetPage ≠ c.cmdColHi) (h' : c.cmdColLo ≠ c.cmdColHi) :
    decodeCommand8 c c.cmdColHi = some (.dcColHi 0#4) := by
  obtain ⟨_, _, _, _, hhi, _⟩ := (Config.wf_iff c).mp hw
  have hpage : c.cmdColHi &&& 0xF8#8 = c.cmdColHi := base_and_mask (k := 3) (by decide) rfl (by omega)
  have hcol : c.cmdColHi &&& 0xF0#8 = c.cmdColHi := base_and_mask (k := 4) (by decide) rfl hhi
  have hfield : c.cmdColHi.extractLsb' 0 4 = 0#4 := by simpa using extract_base_or_field (k := 4) (by decide) hhi 0
  rw [decodeCommand8, hpage, hcol, if_neg h.symm, if_neg h'.symm, if_pos rfl, hfield]

end

end Sys2Proof

namespace Sys2Proof.Machine

/-! ### The transaction of a command -/

/-- The device between transactions, once it has obeyed a command. -/
def Panel.obeyed (d : Panel) (i : Instr) : Panel := { d.obey i with phase := .deaf, opcode := none }

/-- Where the device is in a transaction does not matter for what a command does. -/
theorem Panel.obeyed_inside (d : Panel) (ph : PanelPhase) (op : Option Byte) (i : Instr) :
    Panel.obeyed { d with phase := ph, opcode := op } i = d.obeyed i := by
  cases i <;> rfl

theorem controlPhase_ctrlCmdSingle (c : Config) : controlPhase c c.ctrlCmdSingle = .single false := by
  simp [controlPhase, decodeCtrl]

theorem controlPhase_ctrlCmdMulti {c : Config} (h : c.ctrlCmdMulti ≠ c.ctrlCmdSingle) :
    controlPhase c c.ctrlCmdMulti = .multi false := by
  simp [controlPhase, decodeCtrl, h]

theorem controlPhase_ctrlDataMulti {c : Config}
    (h : c.ctrlDataMulti ∉ [c.ctrlCmdSingle, c.ctrlCmdMulti, c.ctrlDataSingle]) :
    controlPhase c c.ctrlDataMulti = .multi true := by
  simp_all [controlPhase, decodeCtrl]

/-- Behind a start, the address byte and a control byte the device takes the bytes as that control byte says. -/
theorem Panel.watch_transaction (c : Config) (d : Panel) (b : Byte) (bytes : List Byte) :
    d.watch c (transactionTrace c (b :: bytes)) =
      { Panel.watch c { d with phase := controlPhase c b, opcode := none } (bytes.map .data) with
        phase := .deaf, opcode := none } := by
  have hopen : d.watch c (transactionTrace c (b :: bytes)) =
      Panel.watch c { d with phase := controlPhase c b, opcode := none } (bytes.map .data ++ [.stop]) := by
    simp [transactionTrace, Panel.watch, Panel.see]
  rw [hopen, Panel.watch_append]
  rfl

/-- A row of format DCMD8 behind CTRL_CMD_SINGLE. -/
theorem Panel.watch_command8 {c : Config} {b : Byte} {i : Instr} (h : decodeCommand8 c b = some i) (d : Panel) :
    d.watch c (transactionTrace c [c.ctrlCmdSingle, b]) = d.obeyed i := by
  rw [Panel.watch_transaction, controlPhase_ctrlCmdSingle, ← d.obeyed_inside (.single false) none]
  simp [Panel.watch, Panel.see, Panel.take, Panel.command, h, Panel.obeyed]

/-- A row of format DCMD16 behind CTRL_CMD_MULTI. -/
theorem Panel.watch_command16 {c : Config} {op arg : Byte} {i : Instr} (hc : c.ctrlCmdMulti ≠ c.ctrlCmdSingle)
    (h8 : decodeCommand8 c op = none) (hop : hasArgument op = true) (h : decodeCommand16 op arg = some i) (d : Panel) :
    d.watch c (transactionTrace c [c.ctrlCmdMulti, op, arg]) = d.obeyed i := by
  rw [Panel.watch_transaction, controlPhase_ctrlCmdMulti hc, ← d.obeyed_inside (.multi false) none]
  simp [Panel.watch, Panel.see, Panel.take, Panel.command, h8, hop, h, Panel.obeyed]

/-- The opcodes an argument follows are those of format DCMD16. -/
theorem hasArgument_of_decodeCommand16 {op arg : Byte} {i : Instr} (h : decodeCommand16 op arg = some i) :
    hasArgument op = true := by
  refine Decidable.byContradiction fun hnot => ?_
  simp only [hasArgument, Bool.or_eq_true, beq_iff_eq, not_or] at hnot
  simp only [decodeCommand16, hnot, if_false] at h
  cases h

/-- With the default bases no such opcode is a row of format DCMD8 (30_encoding.md R120). -/
theorem decodeCommand8_of_hasArgument {op : Byte} (h : hasArgument op = true) : decodeCommand8 Config.standard op = none := by
  simp only [hasArgument, Bool.or_eq_true, beq_iff_eq, or_assoc] at h
  rcases h with rfl | rfl | rfl | rfl | rfl | rfl | rfl | rfl | rfl <;> rfl

/-! ### A page -/

/-- Display RAM entries of the first `n` columns of page `p`, the newest first. -/
def pageColumns (p : Nat) (f : Nat → Byte) : Nat → List ((Nat × Nat) × Byte)
  | 0 => []
  | n + 1 => ((p, n), f n) :: pageColumns p f n

theorem Panel.gddram_pageColumns (d : Panel) (p : Nat) (f : Nat → Byte) (p' c' n : Nat) :
    Panel.gddram { d with ram := pageColumns p f n ++ d.ram } p' c' =
      if p = p' ∧ c' < n then some (f c') else d.gddram p' c' := by
  induction n with
  | zero => simp [pageColumns]
  | succ n ih =>
    rw [pageColumns, List.cons_append]
    refine (Panel.gddram_cons { d with ram := pageColumns p f n ++ d.ram } p n p' c' (f n)).trans ?_
    rw [ih]
    grind

/-- Display data in page addressing mode from column 0 on: each byte is stored at its column. -/
theorem Panel.watch_columns {c : Config} {d : Panel} (hphase : d.phase = .multi true) (hmode : d.mode = pageMode)
    (hcol : d.colPtr = 0#8) (f : Nat → Byte) : ∀ n ≤ displayW,
      d.watch c ((List.range n).map fun i => .data (f i)) =
        { d with ram := pageColumns d.pagePtr.toNat f n ++ d.ram, colPtr := BitVec.ofNat 8 (n % displayW) } := by
  intro n
  induction n with
  | zero =>
    intro _
    cases d
    cases hcol
    rfl
  | succ n ih =>
    intro hn
    have hptr : (BitVec.ofNat 8 (n % displayW)).toNat = n := by
      simp only [displayW] at *
      rw [BitVec.toNat_ofNat]
      omega
    rw [List.range_succ, List.map_append, Panel.watch_append, ih (by omega)]
    simp only [List.map_cons, List.map_nil, Panel.watch, Panel.see, hphase, Panel.take, if_true]
    rw [Panel.store_page]
    · simp only [hptr, pageColumns, List.cons_append]
    · exact hmode
    · exact Nat.lt_of_le_of_lt (Nat.le_of_eq hptr) hn

/-- The three addressing commands of UPDATE set the pointers to the first column of page `p`. -/
theorem Panel.obeyed_addressing (d : Panel) (p : BitVec 3) :
    ((d.obeyed (.dcSetPage p)).obeyed (.dcColLo 0#4)).obeyed (.dcColHi 0#4) =
      { d with pagePtr := p, colPtr := 0#8, phase := .deaf, opcode := none } := by
  have hlow (hi : BitVec 4) : 0#4 ++ (hi ++ 0#4).extractLsb' 0 4 = 0#8 := by revert hi; decide
  simp [Panel.obeyed, Panel.obey, hlow]

/-- The device once UPDATE has sent it page `p`. -/
def Panel.pageShown (m : Memory) (p : BitVec 3) (d : Panel) : Panel :=
  { d with
    ram := pageColumns p.toNat (fun i => m.read (p.toNat * displayW + i)) displayW ++ d.ram, pagePtr := p, colPtr := 0#8,
    phase := .deaf, opcode := none }

theorem Panel.gddram_pageShown (d : Panel) (m : Memory) (p : BitVec 3) (p' i : Nat) :
    (d.pageShown m p).gddram p' i =
      if p.toNat = p' ∧ i < displayW then some (m.read (p.toNat * displayW + i)) else d.gddram p' i :=
  d.gddram_pageColumns _ _ p' i displayW

/-- The parameters by which the device tells the bytes of an UPDATE apart. -/
structure TellsApart (c : Config) : Prop where
  wf : c.wf = true
  pageLo : c.cmdSetPage ≠ c.cmdColLo
  pageHi : c.cmdSetPage ≠ c.cmdColHi
  loHi : c.cmdColLo ≠ c.cmdColHi
  data : c.ctrlDataMulti ∉ [c.ctrlCmdSingle, c.ctrlCmdMulti, c.ctrlDataSingle]

/-- One page of UPDATE: the three commands set the pointers, and the 128 bytes fill the page and bring COLPTR back to 0. -/
theorem Panel.watch_updatePage {c : Config} (h : TellsApart c) {d : Panel} (hmode : d.mode = pageMode) (m : Memory)
    (p : BitVec 3) : d.watch c (updatePageTrace c m p.toNat) = d.pageShown m p := by
  have hbyte : BitVec.ofNat 8 p.toNat = p.setWidth 8 := BitVec.eq_of_toNat_eq (by simp)
  rw [updatePageTrace, pageTrace, hbyte, Panel.watch_append, Panel.watch_append, Panel.watch_append,
    Panel.watch_command8 (decodeCommand8_cmdSetPage h.wf p), Panel.watch_command8 (decodeCommand8_cmdColLo h.wf h.pageLo),
    Panel.watch_command8 (decodeCommand8_cmdColHi h.wf h.pageHi h.loHi), Panel.obeyed_addressing, Panel.watch_transaction,
    controlPhase_ctrlDataMulti h.data, pageBytes, List.map_map]
  have filled := Panel.watch_columns (c := c)
    (d := { d with pagePtr := p, colPtr := 0#8, phase := .multi true, opcode := none }) rfl hmode rfl
    (fun i => m.read (p.toNat * displayW + i)) displayW (Nat.le_refl _)
  exact congrArg (fun e : Panel => { e with phase := .deaf, opcode := none }) filled

/-! ### UPDATE and INIT -/

/-- The device is in page addressing mode and shows the first `n` pages of the framebuffer. -/
def Panel.ShowsPages (m : Memory) (n : Nat) (d : Panel) : Prop :=
  d.mode = pageMode ∧ ∀ p i, p < n → i < displayW → d.gddram p i = some (m.read (p * displayW + i))

/-- Page `n` goes to its own bytes of the display RAM. -/
theorem Panel.ShowsPages.pageShown {m : Memory} {p : BitVec 3} {d : Panel} (h : d.ShowsPages m p.toNat) :
    (d.pageShown m p).ShowsPages m (p.toNat + 1) := by
  obtain ⟨hmode, hshown⟩ := h
  refine ⟨hmode, fun q i hq hi => ?_⟩
  rw [Panel.gddram_pageShown]
  by_cases hpq : p.toNat = q
  · rw [if_pos ⟨hpq, hi⟩, hpq]
  · rw [if_neg fun hp => hpq hp.1, hshown q i (by omega) hi]

/-- UPDATE page by page, whatever the display RAM held. -/
theorem Panel.showsPages_watch {c : Config} (h : TellsApart c) {d : Panel} (hmode : d.mode = pageMode) (m : Memory) :
    ∀ n ≤ pageCount, (d.watch c ((List.range n).flatMap (updatePageTrace c m))).ShowsPages m n := by
  intro n
  induction n with
  | zero => exact fun _ => ⟨hmode, nofun⟩
  | succ n ih =>
    intro hn
    have before := ih (by omega)
    obtain ⟨p, rfl⟩ : ∃ p : BitVec 3, p.toNat = n := ⟨BitVec.ofNatLT n hn, BitVec.toNat_ofNatLT _ _⟩
    rw [List.range_succ, List.flatMap_append, List.flatMap_singleton, Panel.watch_append,
      Panel.watch_updatePage h before.1]
    exact before.pageShown

/-- The transaction of a controller command (30_encoding.md R101, R102). -/
def commandTrace (c : Config) (i : Instr) : List WireEvent := transactionTrace c (commandTransaction c (encode c i))

/-- With the default parameters the device obeys every controller command the block sends. -/
theorem Panel.watch_commandTrace {i : Instr} (hi : i.format = .dcmd8 ∨ i.format = .dcmd16) (d : Panel) :
    d.watch Config.standard (commandTrace Config.standard i) = d.obeyed i := by
  obtain hi | hi := hi
  · obtain ⟨b, hbytes, _⟩ := encode_dcmd8 (c := Config.standard) (by decide) hi
    have hread := decode_encode i []
    rw [List.append_nil, hi, hbytes] at hread
    rw [commandTrace, hbytes]
    exact Panel.watch_command8 (Decoded.ofOption_eq_ok_iff.mp hread).1 d
  · obtain ⟨op, arg, hbytes, hrow⟩ := encode_dcmd16 Config.standard hi
    have hop := hasArgument_of_decodeCommand16 hrow
    rw [commandTrace, hbytes]
    exact Panel.watch_command16 (by decide) (decodeCommand8_of_hasArgument hop) hop hrow d

theorem Panel.watch_commandTraces (is : List Instr) (d : Panel) (h : ∀ i ∈ is, i.format = .dcmd8 ∨ i.format = .dcmd16) :
    d.watch Config.standard (is.flatMap (commandTrace Config.standard)) = is.foldl Panel.obeyed d := by
  induction is generalizing d with
  | nil => rfl
  | cons i is ih =>
    rw [List.flatMap_cons, Panel.watch_append, Panel.watch_commandTrace (h i (by simp)), List.foldl_cons]
    exact ih _ fun j hj => h j (by simp [hj])

/-- The commands of the default INIT_SEQ (R163, R174 to R187). -/
def initCommands : List Instr :=
  [.dcDisplayOff, .dcAddrMode pageMode, .dcSetPage 0, .dcMuxRatio 0x3F, .dcDisplayOffset 0, .dcSegRemap 1, .dcComScan 1,
    .dcComPins 0 1, .dcContrast 0x7F, .dcDisplayRam, .dcNormal, .dcOsc 8 0, .dcPrecharge 2 2, .dcVcomh 2, .dcChargePump 1,
    .dcDisplayOn]

theorem initTrace_standard : initTrace Config.standard = initCommands.flatMap (commandTrace Config.standard) := rfl

/-- Settles O43: UPDATE fills the display RAM page by page (`Panel.showsPages_watch`); of the commands of INIT_SEQ the second sets
MODE and the last sets ON. -/
theorem updateMirrorsFbOnThePanel : Obligations.UpdateMirrorsFbOnThePanel := by
  refine ⟨fun s d hw hi hc hinit hlo hhi hcol hdata hmode => ?_, fun d => ?_⟩
  · obtain ⟨_, hshown⟩ := Panel.showsPages_watch ⟨hw, hlo, hhi, hcol, hdata⟩ hmode s.fb pageCount (Nat.le_refl _)
    exact ⟨_, _, exec_update hi hc hinit, rfl, hshown⟩
  · rw [initTrace_standard, Panel.watch_commandTraces initCommands d (by decide)]
    exact ⟨rfl, rfl⟩

end Sys2Proof.Machine
end

section
/-! The frame decoder (42_frame_decoder.md): the row RUN, the three ways DECODE's loop ends (a full frame, R195; a run that passes
the end of FB, R196; no run in the stream, R197), and what it leaves as a function of the stream and the cursor (R198). -/

namespace Sys2Proof.Machine

/-! ### The row RUN -/

/-- The row is one turn of DECODE's loop. -/
theorem exec_run {s : State} (hf : s.fault = none) (n : Byte) : exec (.run n) s = .next (decodeRun n s) :=
  whenRunning_of_noFault hf _

/-- Settles O52: a run of 0 fits, and its fill writes nothing. -/
theorem aRunOfZeroOnlyFlipsTheColor : Obligations.ARunOfZeroOnlyFlipsTheColor := by
  intro s hf hidx
  rw [exec_run hf, decodeRun_fits (by simpa using hidx)]
  simp [drawn, runsTotal, Memory.fill]

/-- Settles O53, by `decodeRun_overrun`. -/
theorem aRunThatDoesNotFitWritesNothing : Obligations.ARunThatDoesNotFitWritesNothing := by
  intro s n hf hover
  rw [exec_run hf, decodeRun_overrun hover, raiseFault, hf]
  rfl

/-! ### Runs in the stream and their bytes -/

theorem runsTotal_append (scale : Nat) (l r : List Byte) :
    runsTotal scale (l ++ r) = runsTotal scale l + runsTotal scale r := by simp [runsTotal]

theorem runsTotal_take_le (scale : Nat) (l : List Byte) (j : Nat) : runsTotal scale (l.take j) ≤ runsTotal scale l := by
  have := runsTotal_append scale (l.take j) (l.drop j)
  rw [List.take_append_drop] at this
  omega

theorem length_runPixels (scale : Nat) (runs : List Byte) :
    ∀ on, (runPixels scale on runs).length = runsTotal scale runs := by
  induction runs with
  | nil => intro on; rfl
  | cons n runs ih => intro on; simp [runPixels, runsTotal_cons, ih]

/-- The bytes of run number `j` are of the first color where `j` is even and of the other where it is odd (R192). -/
theorem getElem?_runPixels {scale : Nat} {n : Byte} (runs : List Byte) : ∀ {on : Bool} {i j : Nat}, runs[j]? = some n →
    runsTotal scale (runs.take j) ≤ i → i < runsTotal scale (runs.take j) + n.toNat * scale →
    (runPixels scale on runs)[i]? = some (colorByte (on ^^ (j % 2 == 1))) := by
  induction runs with
  | nil => intro on i j hj; cases hj
  | cons b runs ih =>
    intro on i j hj hlo hhi
    cases j with
    | zero =>
      obtain rfl : b = n := by simpa using hj
      have hi : i < b.toNat * scale := by simpa [runsTotal] using hhi
      rw [runPixels, List.getElem?_append_left (by simpa using hi), List.getElem?_replicate_of_lt hi]
      simp
    | succ j =>
      rw [List.take_succ_cons, runsTotal_cons] at hlo hhi
      have hcolor : ((!on) ^^ (j % 2 == 1)) = (on ^^ ((j + 1) % 2 == 1)) := by
        obtain hpar | hpar : (j % 2 = 0 ∧ (j + 1) % 2 = 1) ∨ (j % 2 = 1 ∧ (j + 1) % 2 = 0) := by omega
        all_goals simp [hpar]
      rw [runPixels, List.getElem?_append_right (by simp; omega), List.length_replicate,
        ih (by simpa using hj) (by omega) (by omega), hcolor]

theorem runsAt.length_le {c : Config} {o : Nat} {runs : List Byte} (h : runsAt c o runs) :
    runs.length ≤ c.stream.length - o := by
  have := congrArg List.length h.1
  rw [List.length_take, List.length_drop] at this
  omega

/-- What the runs before a last one are. -/
theorem runsAt_append_singleton {c : Config} {o : Nat} {runs : List Byte} {n : Byte} (h : runsAt c o (runs ++ [n])) :
    runsAt c o runs ∧ runsTotal c.pixelScale runs < fbSize ∧ c.stream[o + runs.length]? = some n := by
  obtain ⟨hs, hpre⟩ := h
  have hbefore : ∀ j, j ≤ runs.length → runsTotal c.pixelScale (runs.take j) < fbSize := fun j hj => by
    have := hpre j (by rw [List.length_append]; exact Nat.lt_succ_of_le hj)
    rwa [List.take_append_of_le_length hj] at this
  refine ⟨⟨?_, fun j hj => hbefore j (Nat.le_of_lt hj)⟩, by simpa using hbefore _ (Nat.le_refl _), ?_⟩
  · have := congrArg (List.take runs.length) hs
    simpa [List.take_take] using this
  · have := congrArg (·[runs.length]?) hs
    simpa [List.getElem?_take] using this

/-- Runs that end with the stream before the frame is full. -/
theorem runsAt_of_drop_eq {c : Config} {o : Nat} {runs : List Byte} (h : c.stream.drop o = runs)
    (htot : runsTotal c.pixelScale runs < fbSize) : runsAt c o runs ∧ c.stream[o + runs.length]? = none := by
  refine ⟨⟨by rw [h, List.take_length], fun j _ => Nat.lt_of_le_of_lt (runsTotal_take_le _ _ j) htot⟩, ?_⟩
  rw [← List.getElem?_drop, h]
  simp

/-- Of runs that cover `need` bytes, so many are needed and no fewer. -/
theorem exists_least_take (scale : Nat) (l : List Byte) : ∀ need, need ≤ runsTotal scale l →
    ∃ j, j ≤ l.length ∧ need ≤ runsTotal scale (l.take j) ∧ ∀ i, i < j → runsTotal scale (l.take i) < need := by
  induction l with
  | nil => exact fun need h => ⟨0, Nat.le_refl 0, h, nofun⟩
  | cons b l ih =>
    intro need h
    rw [runsTotal_cons] at h
    by_cases hzero : need = 0
    · exact ⟨0, Nat.zero_le _, by omega, nofun⟩
    · obtain ⟨j, hlen, hj, hpre⟩ := ih (need - b.toNat * scale) (by omega)
      refine ⟨j + 1, Nat.succ_le_succ hlen, by rw [List.take_succ_cons, runsTotal_cons]; omega, fun i hi => ?_⟩
      cases i with
      | zero => exact Nat.pos_of_ne_zero hzero
      | succ i =>
        have := hpre i (Nat.lt_of_succ_lt_succ hi)
        rw [List.take_succ_cons, runsTotal_cons]
        omega

/-- From any cursor the stream holds a frame, or runs of which the last passes the end of FB, or it ends before the frame is
full. -/
theorem stream_cases (c : Config) (o : Nat) :
    (∃ runs, frameAt c o runs) ∨
    (∃ runs n, runsAt c o (runs ++ [n]) ∧ fbSize < runsTotal c.pixelScale (runs ++ [n])) ∨
    runsTotal c.pixelScale (c.stream.drop o) < fbSize := by
  generalize hl : c.stream.drop o = l
  by_cases hend : runsTotal c.pixelScale l < fbSize
  · exact .inr (.inr hend)
  obtain ⟨j, hlen, hj, hpre⟩ := exists_least_take c.pixelScale l fbSize (Nat.le_of_not_lt hend)
  have hruns : runsAt c o (l.take j) := by
    have htake : (l.take j).length = j := List.length_take_of_le hlen
    refine ⟨by rw [hl, htake], fun i hi => ?_⟩
    rw [htake] at hi
    rw [List.take_take, Nat.min_eq_left (Nat.le_of_lt hi)]
    exact hpre i hi
  obtain hexact | hover := Nat.eq_or_lt_of_le hj
  · exact .inl ⟨l.take j, hruns, hexact.symm⟩
  · cases j with
    | zero => simp [runsTotal] at hj
    | succ j =>
      rw [← List.take_append_getElem (by omega)] at hruns hover
      exact .inr (.inl ⟨_, _, hruns, hover⟩)

/-! ### DECODE's loop up to its last turn -/

/-- DECODE with the runs `runs` drawn from the start of the cleared framebuffer. -/
def drawing (m : Memory) (runs : List Byte) (s : State) : State := drawn m runs { s with fb := [], idx := 0, color := false }

@[simp] theorem drawing_cfg (m : Memory) (runs : List Byte) (s : State) : (drawing m runs s).cfg = s.cfg := rfl

theorem drawing_idx {m : Memory} {runs : List Byte} {s : State} (h : runsTotal s.cfg.pixelScale runs ≤ fbSize) :
    (drawing m runs s).idx.toNat = runsTotal s.cfg.pixelScale runs := by
  have h' : runsTotal s.cfg.pixelScale runs ≤ 1024 := h
  simp [drawing, drawn]
  omega

theorem drawing_offset {m : Memory} {runs : List Byte} {s : State} (hl : s.cfg.stream.length < 2 ^ 32)
    (hr : runsAt s.cfg s.offset.toNat runs) : (drawing m runs s).offset.toNat = s.offset.toNat + runs.length := by
  have := hr.length_le
  have := s.offset.isLt
  simp [drawing, drawn]
  omega

/-- DECODE up to the loop test behind runs that fit (R191): CLEAR, IDX and COLOR to 0, one turn for each run. -/
theorem reaches_drawing {s : State} {runs : List Byte} (hf : s.fault = none) (hu : s.undisturbed = true)
    (hl : s.cfg.stream.length < 2 ^ 32) (hr : runsAt s.cfg s.offset.toNat runs)
    (htot : runsTotal s.cfg.pixelScale runs ≤ fbSize) :
    ∃ m : Memory, m.wf = true ∧ shows m s.cfg.pixelScale runs ∧
      Reaches 0 (runs.length + 3) (begin .decode s) (goOn [.decodeLoop] (drawing m runs s)) := by
  have hlen := hr.length_le
  have hoff := s.offset.isLt
  have call : Reaches 0 1 (begin .decode s) (goOn [.clear, .decodeFirst] s) :=
    reaches_engine (by simp) hu (by simp [State.engineReady, hf]) rfl
  have clear : Reaches 0 1 (goOn [.clear, .decodeFirst] s) (goOn [.decodeFirst] (clearFb s)) :=
    reaches_engine (by simp) hu (by simp [State.engineReady, hf]) rfl
  have first : Reaches 0 1 (goOn [.decodeFirst] (clearFb s))
      (goOn [.decodeLoop] { s with fb := [], idx := 0, color := false }) :=
    reaches_engine (by simp) hu (by simp [State.engineReady, hf]) rfl
  obtain ⟨hs, hpre⟩ := hr
  obtain ⟨m, hwf, hread, loop⟩ := reaches_runs (depth := 0) (k := []) (Nat.zero_le _) runs
    { s with fb := [], idx := 0, color := false } hf hu Memory.wf_nil (show s.offset.toNat + _ < _ by omega) hs
    (fun j hj => by simpa using hpre j hj) (by simpa using htot)
  exact ⟨m, hwf, fun i hi => by simpa using hread i hi, ((call.trans clear).trans first).trans loop⟩

/-- One more step of the engine. -/
theorem Reaches.step {depth n : Nat} {s t u : State} (h : Reaches depth n s t) (hd : depth < t.seq.length)
    (hu : t.undisturbed = true) (hr : t.engineReady = true) (he : engine t = .next u) : Reaches depth (n + 1) s u := by
  rw [Nat.add_comm]
  exact h.trans (reaches_engine hd hu hr he)

section
variable {k : List Work} {s : State} (hidx : s.idx.toNat < fbSize)
include hidx

/-- A turn of the loop on a run at OFFSET that passes the end of FB. -/
theorem engine_decodeLoop_overrun {n : Byte} (h : s.cfg.stream[s.offset.toNat]? = some n)
    (hover : fbSize < s.idx.toNat + n.toNat * s.cfg.pixelScale) :
    engine (goOn (.decodeLoop :: k) s) = .next (raiseFault .overrun (goOn (.decodeLoop :: k)
      { s with run := n, offset := s.offset + 1, rem := n.toNat * s.cfg.pixelScale })) := by
  have hturn : decodeRun n (goOn (.decodeLoop :: k) s) = _ := decodeRun_overrun hover
  simp only [engine, goOn_seq, engineAt, goOn_idx, goOn_cfg, goOn_offset, if_pos hidx, h, hturn]
  rfl

/-- A turn of the loop with no run at OFFSET. -/
theorem engine_decodeLoop_streamEnd (h : s.cfg.stream[s.offset.toNat]? = none) :
    engine (goOn (.decodeLoop :: k) s) = .next (raiseFault .streamEnd (goOn (.decodeLoop :: k) s)) := by
  simp only [engine, goOn_seq, engineAt, goOn_idx, goOn_cfg, goOn_offset, if_pos hidx, h]

end

/-- DECODE up to its FLT_OVERRUN (R196). -/
theorem reaches_overrun {s : State} {runs : List Byte} {n : Byte} (hf : s.fault = none) (hu : s.undisturbed = true)
    (hl : s.cfg.stream.length < 2 ^ 32) (hr : runsAt s.cfg s.offset.toNat (runs ++ [n]))
    (hover : fbSize < runsTotal s.cfg.pixelScale (runs ++ [n])) :
    ∃ m : Memory, m.wf = true ∧ shows m s.cfg.pixelScale runs ∧
      Reaches 0 (runs.length + 4) (begin .decode s) { s with
        fb := m, offset := s.offset + BitVec.ofNat 32 (runs.length + 1),
        idx := BitVec.ofNat 11 (runsTotal s.cfg.pixelScale runs), color := runs.length % 2 == 1, run := n,
        rem := n.toNat * s.cfg.pixelScale, seq := [.decodeLoop], busy := true, fault := some .overrun } := by
  obtain ⟨hruns, htot, hget⟩ := runsAt_append_singleton hr
  obtain ⟨m, hwf, hshows, hreach⟩ := reaches_drawing hf hu hl hruns (Nat.le_of_lt htot)
  refine ⟨m, hwf, hshows, hreach.step (by simp) hu (by simp [State.engineReady, drawing, drawn, hf]) ?_⟩
  have hidx := drawing_idx (m := m) (Nat.le_of_lt htot)
  rw [engine_decodeLoop_overrun (n := n) (by rwa [hidx]) (by rw [drawing_offset hl hruns]; exact hget)
    (by rw [hidx]; simpa [runsTotal] using hover)]
  simp [raiseFault, goOn, drawing, drawn, hf, BitVec.ofNat_add, BitVec.add_assoc]

/-- DECODE up to its FLT_STREAM_END (R197). -/
theorem reaches_streamEnd {s : State} {runs : List Byte} (hf : s.fault = none) (hu : s.undisturbed = true)
    (hl : s.cfg.stream.length < 2 ^ 32) (hs : s.cfg.stream.drop s.offset.toNat = runs)
    (htot : runsTotal s.cfg.pixelScale runs < fbSize) :
    ∃ m : Memory, m.wf = true ∧ shows m s.cfg.pixelScale runs ∧
      Reaches 0 (runs.length + 4) (begin .decode s) { s with
        fb := m, offset := s.offset + BitVec.ofNat 32 runs.length,
        idx := BitVec.ofNat 11 (runsTotal s.cfg.pixelScale runs), color := runs.length % 2 == 1,
        run := runs.getLast?.getD s.run, rem := if runs = [] then s.rem else 0, seq := [.decodeLoop], busy := true,
        fault := some .streamEnd } := by
  obtain ⟨hruns, hget⟩ := runsAt_of_drop_eq hs htot
  obtain ⟨m, hwf, hshows, hreach⟩ := reaches_drawing hf hu hl hruns (Nat.le_of_lt htot)
  refine ⟨m, hwf, hshows, hreach.step (by simp) hu (by simp [State.engineReady, drawing, drawn, hf]) ?_⟩
  rw [engine_decodeLoop_streamEnd (by rwa [drawing_idx (Nat.le_of_lt htot)])
    (by rw [drawing_offset hl hruns]; exact hget)]
  simp [raiseFault, goOn, drawing, drawn, hf]

/-! ### DECODE as a host operation -/

theorem runsAt.steps_le_fuel {s : State} {runs : List Byte} (h : runsAt s.cfg s.offset.toNat runs) :
    runs.length + 4 ≤ s.fuel := by
  have hlen := h.length_le
  have hfuel := s.fuel_ge
  omega

/-- Settles O46: DECODE runs to its end (`reaches_decode`). -/
theorem decodeDrawsOneFrame : Obligations.DecodeDrawsOneFrame := by
  intro s runs hw hi hu hr
  have ⟨hseq, hbusy, _, hf⟩ := hi
  obtain ⟨_, ⟨_, _, hlen⟩, _⟩ := (Config.wf_iff _).mp hw
  obtain ⟨m, hwf, hshows, hreach⟩ := reaches_decode (depth := 0) (k := []) (Nat.zero_le _) hf hu hlen runs hr
  refine ⟨m, hwf, hshows, (hostOp_ends hi.hostMay hreach rfl hr.1.steps_le_fuel).trans ?_⟩
  exact congrArg _ (goOn_idle hseq hbusy)

/-- Settles O47: FB shows the runs' picture (O46), in which their colors alternate (`getElem?_runPixels`). -/
theorem runsAlternateFromOff : Obligations.RunsAlternateFromOff := by
  intro s runs hw hi hu hr
  obtain ⟨m, _, hshows, hexec⟩ := decodeDrawsOneFrame s runs hw hi hu hr
  refine ⟨_, hexec, fun i j n hj hlo hhi => ?_⟩
  have hpixel := getElem?_runPixels (on := false) runs hj hlo hhi
  obtain ⟨hin, _⟩ := List.getElem?_eq_some_iff.mp hpixel
  rw [length_runPixels, hr.2] at hin
  show m.read i = _
  rw [hshows i hin, List.getD_eq_getElem?_getD, hpixel]
  obtain hpar | hpar := Nat.mod_two_eq_zero_or_one j <;> rw [hpar] <;> rfl

/-- Settles O48: DECODE runs up to the verdict (`reaches_overrun`) and stands there. -/
theorem decodeOverrunFaults : Obligations.DecodeOverrunFaults := by
  intro s runs n hw hi hu hq hr hover
  have ⟨_, _, _, hf⟩ := hi
  obtain ⟨_, ⟨_, _, hlen⟩, _⟩ := (Config.wf_iff _).mp hw
  obtain ⟨hruns, _⟩ := runsAt_append_singleton hr
  obtain ⟨m, hwf, hshows, hreach⟩ := reaches_overrun hf hu hlen hr hover
  exact ⟨m, hwf, hshows, hostOp_stops hi.hostMay hreach hruns.steps_le_fuel hu hq rfl rfl rfl nofun⟩

/-- Settles O49: DECODE runs up to the verdict (`reaches_streamEnd`) and stands there. -/
theorem decodePastTheStreamFaults : Obligations.DecodePastTheStreamFaults := by
  intro s runs hw hi hu hq hs htot
  have ⟨_, _, _, hf⟩ := hi
  obtain ⟨_, ⟨_, _, hlen⟩, _⟩ := (Config.wf_iff _).mp hw
  obtain ⟨hruns, _⟩ := runsAt_of_drop_eq hs htot
  obtain ⟨m, hwf, hshows, hreach⟩ := reaches_streamEnd hf hu hlen hs htot
  exact ⟨m, hwf, hshows, hostOp_stops hi.hostMay hreach hruns.steps_le_fuel hu hq rfl rfl rfl nofun⟩

/-! ### The stream and the cursor decide what DECODE leaves -/

section
variable {a i : Nat} (b : Byte) (rest : Memory)

theorem Memory.read_head : Memory.read ((a, b) :: rest) a = b := if_pos rfl

theorem Memory.read_before_head (h : i < a) : Memory.read ((a, b) :: rest) i = fbUnlisted := by
  rw [Memory.read, if_neg (Nat.ne_of_gt h), if_pos h]

theorem Memory.read_behind_head (h : a < i) : Memory.read ((a, b) :: rest) i = rest.read i := by
  rw [Memory.read, if_neg (Nat.ne_of_lt h), if_neg (Nat.lt_asymm h)]

theorem Memory.wfFrom_cons (lo : Nat) : Memory.wfFrom lo ((a, b) :: rest) = true ↔
    lo ≤ a ∧ a < fbSize ∧ b ≠ fbUnlisted ∧ rest.wfFrom (a + 1) = true := by
  simp [Memory.wfFrom, and_assoc]

end

/-- The canonical form is one: framebuffers that hold the same bytes are equal. Each has its first listed byte where the other
has it, since a listed byte differs from what an unlisted one reads as. -/
theorem Memory.eq_of_read_eq {m : Memory} : ∀ {m' : Memory} {lo : Nat}, m.wfFrom lo = true → m'.wfFrom lo = true →
    (∀ i, i < fbSize → m.read i = m'.read i) → m = m' := by
  induction m with
  | nil =>
    rintro (_ | ⟨⟨a', b'⟩, rest'⟩) lo _ hw' heq
    · rfl
    · obtain ⟨_, ha', hb', _⟩ := (wfFrom_cons b' rest' lo).mp hw'
      exact absurd ((read_head b' rest').symm.trans (heq a' ha').symm) hb'
  | cons e rest ih =>
    obtain ⟨a, b⟩ := e
    rintro (_ | ⟨⟨a', b'⟩, rest'⟩) lo hw hw' heq
    · obtain ⟨_, ha, hb, _⟩ := (wfFrom_cons b rest lo).mp hw
      exact absurd ((read_head b rest).symm.trans (heq a ha)) hb
    · obtain ⟨_, ha, hb, hrest⟩ := (wfFrom_cons b rest lo).mp hw
      obtain ⟨_, ha', hb', hrest'⟩ := (wfFrom_cons b' rest' lo).mp hw'
      obtain hlt | rfl | hgt := Nat.lt_trichotomy a a'
      · exact absurd ((read_head b rest).symm.trans ((heq a ha).trans (read_before_head b' rest' hlt))) hb
      · have hbyte : b = b' := (read_head b rest).symm.trans ((heq a ha).trans (read_head b' rest'))
        have htail : rest = rest' := ih hrest hrest' fun i hi => by
          by_cases hia : a < i
          · rw [← read_behind_head b rest hia, heq i hi, read_behind_head b' rest' hia]
          · rw [read_below hrest (by omega), read_below hrest' (by omega)]
        rw [hbyte, htail]
      · exact absurd ((read_head b' rest').symm.trans ((heq a' ha').symm.trans (read_before_head b rest hgt))) hb'

/-- What R198 speaks of: FB, the cursor and the verdict. -/
def State.decodeResult (s : State) : Memory × BitVec 32 × Option FaultCode := (s.fb, s.offset, s.fault)

theorem countdown_decodeResult (s : State) : (countdown s).decodeResult = s.decodeResult := by
  unfold countdown
  split <;> rfl

theorem busStep_decodeResult (s : State) : (busStep s).decodeResult = s.decodeResult := by
  unfold busStep
  split
  · rfl
  · split <;> rfl

theorem landBusy_decodeResult {m : Move} {s t : State} (h : landBusy m s = .next t) : t.decodeResult = s.decodeResult := by
  cases m with
  | tick => cases h; rfl
  | read reg =>
    simp only [landBusy, hostRead] at h
    split at h
    · cases h
    · split at h <;> cases h
      rfl
  | write reg v => cases h

/-- With a verdict standing only BUS and the lines move on (60_exceptions.md R243). -/
theorem drive_decodeResult {fuel depth : Nat} {s t : State} (hf : s.fault ≠ none) (h : drive fuel depth s = .next t) :
    t.decodeResult = s.decodeResult := by
  refine drive_keeps (R := fun s t => s.fault ≠ none → t.decodeResult = s.decodeResult) (fun _ _ => rfl) ?_ ?_ ?_ fuel h hf
  · intro s t u hst htu hs
    have hft : t.fault = s.fault := congrArg (fun r => r.2.2) (hst hs)
    exact (htu (hft ▸ hs)).trans (hst hs)
  · intro s t _ ha hs
    have hidle : s.engineReady = false := by simp [State.engineReady, hs]
    simp only [advance, hidle] at ha
    cases ha
    exact (busStep_decodeResult _).trans (countdown_decodeResult s)
  · intro s t m rest _ hl _
    exact landBusy_decodeResult (s := { s with script := rest }) hl

/-- The state an operation of HOST reaches, ended or with a verdict, has the FB, the cursor and the verdict of its answer. -/
theorem hostOp_decodeResult {w : Work} {n : Nat} {s t u : State} (h : Reaches 0 n (begin w s) u) (hn : n ≤ s.fuel)
    (hend : u.seq = [] ∨ u.fault ≠ none) (ht : hostOp w s = .next t) : t.decodeResult = u.decodeResult := by
  obtain ⟨m, hm⟩ : ∃ m, s.fuel = m + n := ⟨s.fuel - n, by omega⟩
  unfold hostOp runOp at ht
  split at ht
  · rw [hm, h m] at ht
    obtain hseq | hfault := hend
    · rw [drive_done (by simp [hseq])] at ht
      cases ht
      rfl
    · exact drive_decodeResult hfault ht
  · cases ht

/-- The stream and the cursor say which runs DECODE draws, where it leaves the cursor, and the verdict (R195 to R197). -/
theorem exists_decodeResult (c : Config) (o : BitVec 32) (hw : c.wf = true) :
    ∃ runs cursor verdict, ∀ s t : State, s.cfg = c → s.offset = o → s.Idle → s.undisturbed = true →
      exec .decode s = .next t →
      ∃ m : Memory, m.wf = true ∧ shows m c.pixelScale runs ∧ t.decodeResult = (m, cursor, verdict) := by
  obtain ⟨_, ⟨_, _, hlen⟩, _⟩ := (Config.wf_iff _).mp hw
  obtain ⟨runs, hr⟩ | ⟨runs, n, hr, hover⟩ | htot := stream_cases c o.toNat
  · refine ⟨runs, o + BitVec.ofNat 32 runs.length, none, ?_⟩
    rintro s t rfl rfl ⟨_, _, _, hf⟩ hu ht
    obtain ⟨m, hwf, hshows, hreach⟩ := reaches_decode (depth := 0) (k := []) (Nat.zero_le _) hf hu hlen runs hr
    refine ⟨m, hwf, hshows, (hostOp_decodeResult hreach hr.1.steps_le_fuel (.inl rfl) ht).trans ?_⟩
    rw [← hf]
    rfl
  · refine ⟨runs, o + BitVec.ofNat 32 (runs.length + 1), some .overrun, ?_⟩
    rintro s t rfl rfl ⟨_, _, _, hf⟩ hu ht
    obtain ⟨hruns, _⟩ := runsAt_append_singleton hr
    obtain ⟨m, hwf, hshows, hreach⟩ := reaches_overrun hf hu hlen hr hover
    exact ⟨m, hwf, hshows, hostOp_decodeResult hreach hruns.steps_le_fuel (.inr nofun) ht⟩
  · refine ⟨c.stream.drop o.toNat, o + BitVec.ofNat 32 (c.stream.drop o.toNat).length, some .streamEnd, ?_⟩
    rintro s t rfl rfl ⟨_, _, _, hf⟩ hu ht
    obtain ⟨hruns, _⟩ := runsAt_of_drop_eq rfl htot
    obtain ⟨m, hwf, hshows, hreach⟩ := reaches_streamEnd hf hu hlen rfl htot
    exact ⟨m, hwf, hshows, hostOp_decodeResult hreach hruns.steps_le_fuel (.inr nofun) ht⟩

/-- Settles O50: both draw the same runs (`exists_decodeResult`), and a picture has one canonical framebuffer. -/
theorem decodeDependsOnTheCursorAlone : Obligations.DecodeDependsOnTheCursorAlone := by
  intro s₁ s₂ t₁ t₂ hw hi₁ hi₂ hu₁ hu₂ hcfg hoffset ht₁ ht₂
  obtain ⟨runs, cursor, verdict, hresult⟩ := exists_decodeResult s₁.cfg s₁.offset hw
  obtain ⟨m₁, hwf₁, hshows₁, h₁⟩ := hresult s₁ t₁ rfl rfl hi₁ hu₁ ht₁
  obtain ⟨m₂, hwf₂, hshows₂, h₂⟩ := hresult s₂ t₂ hcfg.symm hoffset.symm hi₂ hu₂ ht₂
  obtain rfl : m₁ = m₂ := Memory.eq_of_read_eq hwf₁ hwf₂ fun i hi => (hshows₁ i hi).trans (hshows₂ i hi).symm
  simpa [State.decodeResult] using h₁.trans h₂.symm

end Sys2Proof.Machine
end

section
/-! The playback scheduler (43_playback_scheduler.md): ARM, TICK and the loop over the frames of a well-formed stream. -/

namespace Sys2Proof.Machine

/-! ### ARM -/

/-- Settles O45: ARM is one step of the engine. -/
theorem armEnablesTheTick : Obligations.ArmEnablesTheTick := by
  intro s hi hu
  have ⟨_, _, _, hf⟩ := hi
  have hreach : Reaches 0 1 (begin .arm s) (goOn [] { s with tickEn := true }) :=
    reaches_engine (by simp) hu (by simp [State.engineReady, hf]) rfl
  exact hostOp_returns hi hreach (by decide) rfl rfl

/-! ### TICK -/

/-- The cursor TICK reads from, as a natural number. -/
theorem State.playOffset_toNat (s : State) :
    s.playOffset.toNat = if s.frame.toNat = s.cfg.totalFrames then 0 else s.offset.toNat :=
  apply_ite BitVec.toNat _ _ _

/-- The number of TICK's frame, as a natural number. -/
theorem State.playFrame_toNat (s : State) :
    s.playFrame.toNat = if s.frame.toNat = s.cfg.totalFrames then 0 else s.frame.toNat :=
  apply_ite BitVec.toNat _ _ _

/-- Settles O55: TICK plays the frame at the cursor (`exec_tick_plays`), and `played` is the state the statement writes out. -/
theorem tickPlaysOneFrame : Obligations.TickPlaysOneFrame := by
  intro s runs hw hs hb he hclear hi hr
  rw [← s.playOffset_toNat] at hr
  exact exec_tick_plays hw hs hb he hclear hi hr

/-- With no transaction open BUS has no step. -/
theorem busReady_of_busQuiet {s : State} (h : s.busQuiet = true) : s.busReady = false := by
  rw [State.busQuiet_iff] at h
  simp [State.busReady, State.grantEnabled, h]

/-- Settles O56: the event is accepted, and the test of INIT_DONE is TICK's first step. -/
theorem aTickBeforeInitFaults : Obligations.ATickBeforeInitFaults := by
  intro s _ hb he hf hu hq hinit
  have haccept : (tickIn s).acceptable = true := by simp [State.acceptable, hb, he, hf]
  have hfault : Reaches 0 1 (begin .tick (tickIn s)) (raiseFault .notInit (begin .tick (tickIn s))) :=
    reaches_engine (by simp) hu (by simp [State.engineReady, hf]) (if_neg (by simp [hinit]))
  have hfuel := (begin .tick (tickIn s)).fuel_ge
  have hstuck := hfault.drive_stuck (fuel := (begin .tick (tickIn s)).fuel) hu (by simp [State.engineReady])
    (busReady_of_busQuiet hq) (by omega)
  refine (execTick_acceptable hu haccept).trans (hstuck.trans ?_)
  simp [raiseFault, begin, tickIn, he, hf]

/-- None of the last three steps of TICK (R211) is a row of the opcode table, so the step is the engine's own. -/
theorem step_tickEnd {s : State} {w : Work} {k : List Work} (hw : s.cfg.wf = true) (hu : s.undisturbed = true)
    (hf : s.fault = none) (hs : s.seq = w :: k) (hend : w = .tickCount ∨ w = .tickClear ∨ w = .tickBeat) :
    step s = engineAt w k s := by
  have hready : s.engineReady = true := by
    obtain rfl | rfl | rfl := hend <;> simp [State.engineReady, hf, hs]
  have hfetch : fetch s = none := by
    obtain rfl | rfl | rfl := hend <;> simp [fetch, hs]
  rw [step_engine hw hu hready hfetch, engine, hs]

/-- Settles O57: each of the three is the engine's own step, with an event before it or not. -/
theorem onlyAnEventAfterTheClearingStepIsOwed : Obligations.OnlyAnEventAfterTheClearingStepIsOwed := by
  intro s hw hu hf he
  refine ⟨fun hs => ?_, fun hs => ?_, fun hs => ⟨?_, goOn [] { tickIn s with hb := !s.hb }, ?_, rfl, ?_⟩⟩
  · exact step_tickEnd hw hu hf hs (.inl rfl)
  · exact step_tickEnd (s := tickIn s) hw hu hf hs (.inr (.inl rfl))
  · exact step_tickEnd hw hu hf hs (.inr (.inr rfl))
  · exact step_tickEnd (s := tickIn s) hw hu hf hs (.inr (.inr rfl))
  · simp [State.acceptable, he, hf]

/-! ### The frames of the stream and their pictures -/

/-- A frame has a run: without one nothing of FB is covered. -/
theorem frameAt.length_pos {c : Config} {o : Nat} {runs : List Byte} (h : frameAt c o runs) : 0 < runs.length := by
  refine List.length_pos_iff.mpr ?_
  rintro rfl
  exact absurd h.2 (by simp [runsTotal])

/-- Settles O58: below TOTAL_FRAMES another frame starts at o_k, and its runs stand before the end of the stream. -/
theorem theLoopRestartsAtTheEndOfTheStream : Obligations.TheLoopRestartsAtTheEndOfTheStream := by
  intro c k o _ hok hle ho
  constructor
  · rintro rfl
    exact Option.some.inj (ho.symm.trans (beq_iff_eq.mp hok))
  · intro hend
    obtain hlt | hlast := Nat.lt_or_eq_of_le hle
    · obtain ⟨runs, hframe, _, hstream⟩ := Config.exists_frame hok hlt ho
      have := hframe.length_pos
      omega
    · exact hlast

/-- Of two frames at one offset neither is shorter: its runs would fill FB before the other has ended. -/
theorem frameAt.length_le {c : Config} {o : Nat} {runs runs' : List Byte} (h : frameAt c o runs) (h' : frameAt c o runs') :
    runs'.length ≤ runs.length := by
  refine Nat.le_of_not_lt fun hlt => ?_
  have htake : runs'.take runs.length = runs := by
    rw [← h'.1.1, List.take_take, Nat.min_eq_left (Nat.le_of_lt hlt), h.1.1]
  have hless := h'.1.2 runs.length hlt
  rw [htake, h.2] at hless
  exact Nat.lt_irrefl _ hless

/-- At an offset of the stream stands one frame at most. -/
theorem frameAt.eq {c : Config} {o : Nat} {runs runs' : List Byte} (h : frameAt c o runs) (h' : frameAt c o runs') :
    runs = runs' := by
  rw [← h.1.1, ← h'.1.1, Nat.le_antisymm (h'.length_le h) (h.length_le h')]

/-- The framebuffer `m` shows the picture of frame number `k` of the stream. -/
def showsFrame (c : Config) (k : Nat) (m : Memory) : Prop :=
  ∃ o runs, c.frameStart k = some o ∧ frameAt c o runs ∧ shows m c.pixelScale runs

/-- Two framebuffers that show one frame are the same up to FB_SIZE. -/
theorem showsFrame.read_eq {c : Config} {k : Nat} {m m' : Memory} (h : showsFrame c k m) (h' : showsFrame c k m') {i : Nat}
    (hi : i < fbSize) : m.read i = m'.read i := by
  obtain ⟨o, runs, ho, hframe, hshows⟩ := h
  obtain ⟨o', runs', ho', hframe', hshows'⟩ := h'
  obtain rfl : o = o' := Option.some.inj (ho.symm.trans ho')
  obtain rfl := hframe.eq hframe'
  exact (hshows i hi).trans (hshows' i hi).symm

/-- UPDATE sends nothing but the bytes of FB below FB_SIZE. -/
theorem updateTrace_congr (c : Config) {m m' : Memory} (h : ∀ i, i < fbSize → m.read i = m'.read i) :
    updateTrace c m = updateTrace c m' := by
  rw [updateTrace, updateTrace, List.flatMap_def, List.flatMap_def]
  refine congrArg List.flatten (List.map_congr_left fun p hp => ?_)
  have hbytes : pageBytes m p = pageBytes m' p := List.map_congr_left fun i hi => h _ <| by
    have hpage : p < 8 := List.mem_range.mp hp
    have hcol : i < 128 := List.mem_range.mp hi
    show p * 128 + i < 1024
    omega
  simp only [updatePageTrace, pageTrace, hbytes]

/-! ### The loop -/

/-- A block that may play on (10_state.md R53): idle, armed and initialized, with a well-formed stream (K4), nothing in the way
of an operation, and FRAME and OFFSET at one frame. -/
structure State.InStep (s : State) : Prop where
  wf : s.cfg.wf = true
  streamOk : s.cfg.streamOk = true
  seq : s.seq = []
  busy : s.busy = false
  armed : s.tickEn = true
  clear : s.Clear
  initDone : s.initDone = true
  frame_le : s.frame.toNat ≤ s.cfg.totalFrames
  offset_eq : s.cfg.frameStart s.frame.toNat = some s.offset.toNat

/-- A served tick shows and sends its frame and leaves a block that may play on. -/
theorem State.InStep.exec_tick {s : State} (h : s.InStep) : ∃ t, exec .tick s = .next t ∧ t.InStep ∧ t.cfg = s.cfg ∧
    t.frame.toNat = s.playFrame.toNat + 1 ∧ showsFrame s.cfg s.playFrame.toNat t.fb ∧
    t.wire = s.wire ++ updateTrace s.cfg t.fb ∧ t.hb = !s.hb := by
  obtain ⟨wf, streamOk, seq, busy, armed, clear, initDone, frame_le, offset_eq⟩ := h
  obtain ⟨t, hexec, hcount, hle, hstart, ⟨o, runs, ho, hframe, _, hshows⟩, hwire, hhb, _, hseq, hbusy, hclear, hcfg, harmed,
    hinit⟩ := aTickKeepsCursorAndCounterTogether s wf streamOk seq busy armed clear initDone frame_le offset_eq
  rw [← s.playFrame_toNat] at hcount
  rw [hcount, Nat.add_sub_cancel] at ho
  have hin : t.InStep :=
    ⟨by rw [hcfg]; exact wf, by rw [hcfg]; exact streamOk, hseq, hbusy, harmed, hclear, hinit, hle, hstart⟩
  exact ⟨t, hexec, hin, hcfg, hcount, hcfg ▸ ⟨o, runs, ho, hframe, hshows⟩, hwire, hhb⟩

/-- Every frame of the stream has a picture: the one a tick leaves that is served with the cursor at the frame. -/
theorem State.InStep.exists_showsFrame {s : State} (h : s.InStep) {k : Nat} (hk : k < s.cfg.totalFrames) :
    ∃ m, showsFrame s.cfg k m := by
  obtain ⟨_, ⟨_, hmax, hlen⟩, _⟩ := (Config.wf_iff _).mp h.wf
  obtain ⟨o, ho⟩ := Config.frameStart_of_le (Nat.le_of_lt hk) (beq_iff_eq.mp h.streamOk)
  obtain ⟨runs, _, _, hstream⟩ := Config.exists_frame h.streamOk hk ho
  have hk32 : k < 2 ^ 32 := Nat.lt_trans hk hmax
  have ho32 : o < 2 ^ 32 := Nat.lt_of_le_of_lt (Nat.le_of_add_right_le hstream) hlen
  have hin : State.InStep { s with frame := .ofNatLT k hk32, offset := .ofNatLT o ho32 } :=
    { h with frame_le := Nat.le_of_lt hk, offset_eq := ho }
  obtain ⟨t, _, _, _, _, hshows, _⟩ := hin.exec_tick
  rw [State.playFrame_toNat, BitVec.toNat_ofNatLT, if_neg (Nat.ne_of_lt hk)] at hshows
  exact ⟨t.fb, hshows⟩

/-- There is one picture for each frame of the stream. -/
theorem State.InStep.exists_pictures {s : State} (h : s.InStep) :
    ∃ picture : Nat → Memory, ∀ k, k < s.cfg.totalFrames → showsFrame s.cfg k (picture k) := by
  have hframe : ∀ k, ∃ m, k < s.cfg.totalFrames → showsFrame s.cfg k m := fun k => by
    by_cases hk : k < s.cfg.totalFrames
    · obtain ⟨m, hm⟩ := h.exists_showsFrame hk
      exact ⟨m, fun _ => hm⟩
    · exact ⟨[], fun hk' => absurd hk' hk⟩
  exact Classical.skolem.mp hframe

/-- The tick after `n` served ticks. -/
theorem serveTicks_succ {n : Nat} {s t : State} (h : serveTicks n s = .next t) : serveTicks (n + 1) s = exec .tick t := by
  induction n generalizing s with
  | zero =>
    obtain rfl : s = t := Host.Outcome.next.inj h
    cases hx : exec .tick s <;> simp [serveTicks, hx]
  | succ n ih =>
    rw [serveTicks] at h ⊢
    cases hx : exec .tick s with
    | next u =>
      rw [hx] at h
      exact ih h
    | fault => simp [hx] at h
    | refused => simp [hx] at h

/-- The traces of the first `n` ticks, the frames in order and from the first one again (R218). -/
def playbackTrace (c : Config) (picture : Nat → Memory) (n : Nat) : List WireEvent :=
  (List.range n).flatMap fun j => updateTrace c (picture (j % c.totalFrames))

theorem playbackTrace_succ (c : Config) (picture : Nat → Memory) (n : Nat) : playbackTrace c picture (n + 1) =
    playbackTrace c picture n ++ updateTrace c (picture (n % c.totalFrames)) := by
  simp [playbackTrace, List.range_succ]

/-- `t` is where `n` served ticks have taken the block from the start of the stream at `s`. -/
structure State.PlayedTicks (picture : Nat → Memory) (s : State) (n : Nat) (t : State) : Prop where
  inStep : t.InStep
  cfg_eq : t.cfg = s.cfg
  frame_next : t.playFrame.toNat = n % s.cfg.totalFrames
  hb_eq : t.hb = (s.hb ^^ (n % 2 == 1))
  wire_eq : t.wire = s.wire ++ playbackTrace s.cfg picture n

/-- Where FRAME = 0 and OFFSET = 0 no tick has been served. -/
theorem State.InStep.playedTicks_zero {s : State} (h : s.InStep) (hframe : s.frame = 0) (picture : Nat → Memory) :
    State.PlayedTicks picture s 0 s where
  inStep := h
  cfg_eq := rfl
  frame_next := by simp [State.playFrame, hframe]
  hb_eq := by simp
  wire_eq := by simp [playbackTrace]

/-- HB has changed an odd number of times after `n` + 1 ticks exactly where it had changed an even number of times before. -/
theorem succ_odd_eq_even (n : Nat) : ((n + 1) % 2 == 1) = (n % 2 == 0) := by
  obtain hn | hn := Nat.mod_two_eq_zero_or_one n <;> simp [Nat.add_mod, hn]

/-- Counting on from frame number `n` modulo TOTAL_FRAMES, from 0 where the last frame has been played. -/
theorem succ_mod_eq_ite {n k : Nat} (hk : k ≠ 0) : (n + 1) % k = if n % k + 1 = k then 0 else n % k + 1 := by
  rw [← Nat.mod_add_mod]
  split
  · rename_i hlast
    rw [hlast, Nat.mod_self]
  · rename_i hnext
    have := Nat.mod_lt n (Nat.pos_of_ne_zero hk)
    exact Nat.mod_eq_of_lt (by omega)

section
variable {picture : Nat → Memory} {s : State} (hp : ∀ k, k < s.cfg.totalFrames → showsFrame s.cfg k (picture k))
include hp

/-- One more tick. -/
theorem State.PlayedTicks.exec_tick {n : Nat} {t : State} (h : State.PlayedTicks picture s n t) :
    ∃ u, exec .tick t = .next u ∧ u.frame.toNat = n % s.cfg.totalFrames + 1 ∧ State.PlayedTicks picture s (n + 1) u := by
  obtain ⟨hin, hcfg, hnext, hhb, hwire⟩ := h
  obtain ⟨u, hexec, hin', hcfg', hcount, hshows, hwire', hhb'⟩ := hin.exec_tick
  obtain ⟨_, ⟨hframes, _⟩, _⟩ := (Config.wf_iff _).mp hin.wf
  rw [hcfg] at hcfg' hshows hwire' hframes
  rw [hnext] at hcount hshows
  have hlt : n % s.cfg.totalFrames < s.cfg.totalFrames := Nat.mod_lt _ (Nat.pos_of_ne_zero hframes)
  have hsent : updateTrace s.cfg u.fb = updateTrace s.cfg (picture (n % s.cfg.totalFrames)) :=
    updateTrace_congr _ fun i hi => hshows.read_eq (hp _ hlt) hi
  refine ⟨u, hexec, hcount, hin', hcfg', ?_, ?_, ?_⟩
  · rw [State.playFrame_toNat, hcount, hcfg', succ_mod_eq_ite hframes]
  · rw [hhb', hhb, succ_odd_eq_even, ← Bool.xor_not]
    obtain hn | hn := Nat.mod_two_eq_zero_or_one n <;> simp [hn]
  · rw [hwire', hwire, hsent, playbackTrace_succ, List.append_assoc]

/-- Any number of ticks, each raised when the block has done with the one before. -/
theorem serveTicks_plays (h : s.InStep) (hframe : s.frame = 0) (n : Nat) :
    ∃ t, serveTicks n s = .next t ∧ State.PlayedTicks picture s n t := by
  induction n with
  | zero => exact ⟨s, rfl, h.playedTicks_zero hframe picture⟩
  | succ n ih =>
    obtain ⟨t, hserve, hplayed⟩ := ih
    obtain ⟨u, hexec, _, hplayed'⟩ := hplayed.exec_tick hp
    exact ⟨u, (serveTicks_succ hserve).trans hexec, hplayed'⟩

end

/-- Settles O60: by induction the first `n` ticks play (`serveTicks_plays`), and one more tick counts to its frame. -/
theorem playbackLoopsForEver : Obligations.PlaybackLoopsForEver := by
  intro s hw hok hs hb he hclear hi hframe hoffset
  have hin : s.InStep :=
    ⟨hw, hok, hs, hb, he, hclear, hi, by simp [hframe], by simp [hframe, hoffset, Config.frameStart]⟩
  obtain ⟨picture, hp⟩ := hin.exists_pictures
  refine ⟨picture, hp, fun n => ?_⟩
  obtain ⟨t, hserve, hplayed⟩ := serveTicks_plays hp hin hframe n
  obtain ⟨u, hexec, hcount, hplayed'⟩ := hplayed.exec_tick hp
  obtain ⟨hin', hcfg', _, hhb', hwire'⟩ := hplayed'
  have ⟨_, _, _, hfault⟩ := hin'.clear
  refine ⟨u, (serveTicks_succ hserve).trans hexec, hcount, ?_, by rw [hhb', succ_odd_eq_even], hfault, hin'.busy, hwire'⟩
  rw [← hcfg']
  exact hin'.offset_eq

end Sys2Proof.Machine
end

section
/-! Faults, hangs and the tick (60_exceptions.md): the step of a block whose engine stands still, the start of a host operation, and
the tick event with its acceptance. -/

namespace Sys2Proof.Machine

/-! ### A running operation whose engine stands still (60_exceptions.md R240, R243) -/

/-- Where HOST has no move but a read of STATUS, a line that lands when nothing else can move, or that waits, changes TICK_PEND and
HOST's own data at most. -/
theorem quietLine_busy {s t : State} (hm : s.hostMay = false) (h : quietLine exec s = .next t) :
    t = { s with tickPend := t.tickPend, script := t.script, hostData := t.hostData } := by
  unfold quietLine at h
  split at h
  · cases h; rfl
  · split at h
    · cases h; rfl
    · exact landLine_busy hm h

/-- While an operation runs and the engine has no step, the step of the system is BUS's, or it is a line's. -/
theorem step_cases_of_standing {s t : State} (hb : s.busy = true) (hr : s.engineReady = false) (h : step s = .next t) :
    (s.busReady = true ∧ t = busStep (countdown s)) ∨
      t = { s with tickPend := t.tickPend, script := t.script, hostData := t.hostData } := by
  have hm : s.hostMay = false := by simp [State.hostMay, hb]
  have ha : s.acceptable = false := by simp [State.acceptable, hb]
  unfold step turn at h
  rw [hr, ha] at h
  split at h
  · cases h
  · split at h
    · exact .inr (landLine_busy hm h)
    · simp only [Bool.false_eq_true, if_false] at h
      split at h
      · rename_i hbus
        cases h
        exact .inl ⟨hbus, rfl⟩
      · exact .inr (quietLine_busy hm h)

theorem countdown_frame (s : State) : countdown s = { s with script := (countdown s).script } := by
  unfold countdown
  split <;> rfl

/-- A step of BUS moves WIRE, the bus flags and what BUS will still do. -/
theorem busStep_frame {s t : State} (h : t = busStep s) :
    t = { s with wire := t.wire, startReq := t.startReq, fStart := t.fStart, fAddr := t.fAddr, fBtc := t.fBtc,
                 inXact := t.inXact, await := t.await, device := t.device } := by
  subst h
  unfold busStep
  split
  · rfl
  · split <;> rfl

/-- Settles O12: the engine has no step while the verdict stands, and neither BUS's step nor a line touches these fields. -/
theorem aVerdictStopsTheEngine : Obligations.AVerdictStopsTheEngine := by
  intro s t hinv hf hstep
  have hb : s.busy = true := hinv.fault hf
  have hr : s.engineReady = false := by simp [State.engineReady, hf]
  obtain ⟨-, ht⟩ | ht := step_cases_of_standing hb hr hstep
  · rw [busStep_frame ht, countdown_frame s]
    exact ⟨hb, rfl, rfl, rfl, rfl, rfl, rfl, rfl, rfl, rfl⟩
  · rw [ht]
    exact ⟨hb, rfl, rfl, rfl, rfl, rfl, rfl, rfl, rfl, rfl⟩

/-- At a hold an operation is running. -/
theorem seq_ne_nil_of_atHold {s : State} (h : s.atHold = true) : s.seq ≠ [] := by
  intro hs
  simp [State.atHold, hs] at h

/-- Settles O13: at a hold the engine has no step, and where BUS has none the step is a line's. -/
theorem aHoldIsLeftOnlyByBus : Obligations.AHoldIsLeftOnlyByBus := by
  intro s hinv hhold
  have hb : s.busy = true := by simp [hinv.busy, seq_ne_nil_of_atHold hhold]
  refine ⟨hb, fun t hbus hstep => ?_⟩
  obtain ⟨hbus', -⟩ | ht := step_cases_of_standing hb (engineReady_of_atHold hhold) hstep
  · exact absurd hbus' (by simp [hbus])
  · exact ht

/-! ### The start of a host operation (60_exceptions.md R235) -/

/-- HOST's write of a legal code to CMD runs the operation. -/
theorem hostWrite_cmd {run : Instr → State → Host.Outcome State Fault Refusal} {s : State} {i : Instr} {v : Word}
    {rest : List Byte} (hm : s.hostMay = true) (hd : Sys2Proof.decode s.cfg .hostop8 [v.setWidth 8] = .ok i rest) :
    hostWrite run 0 v s = run i s := by
  simp [hostWrite, hm, hd]

/-- Settles O15: the line lands, and its code is the operation's. -/
theorem stepRunsTheHostOperation : Obligations.StepRunsTheHostOperation := by
  intro s i m v rest hw hi hb hs hd
  rw [step_idle_line hw hi hb hs, landLine_write hs]
  exact hostWrite_cmd hi.hostMay_script hd

/-- A host operation does not start where HOST may not. -/
theorem hostOp_noMove {w : Work} {s : State} (hm : s.hostMay = false) : hostOp w s = .refused .noMove :=
  if_neg (by simp [hm])

/-- Settles O25: HOST may not, and each of the seven is a host operation, STREAM_PAGE on the page of ARG_PAGE. -/
theorem noHostOperationStartsWhileBusyOrArmed : Obligations.NoHostOperationStartsWhileBusyOrArmed := by
  intro s hba i hi
  have hm : s.hostMay = false := by
    obtain hbusy | htick := hba
    · simp [State.hostMay, hbusy]
    · simp [State.hostMay, htick]
  simp only [List.mem_cons, List.not_mem_nil, or_false] at hi
  obtain rfl | rfl | rfl | rfl | rfl | rfl | rfl := hi
  case inr.inr.inr.inr.inr.inl => exact (execStreamPage_eq_hostOp s).trans (hostOp_noMove hm)
  all_goals exact hostOp_noMove hm

/-! ### The tick event and its acceptance (60_exceptions.md R231, R233, R234) -/

/-- R233's four conditions. -/
theorem State.acceptable_iff (s : State) :
    s.acceptable = true ↔ s.busy = false ∧ s.tickEn = true ∧ s.tickPend = true ∧ s.fault = none := by
  simp [State.acceptable, and_assoc]

/-- The instruction TICK at an accepted tick: its service. -/
theorem execTick_accepted {s : State} (hb : s.busy = true) (ht : s.tickAccepted = true) :
    execTick s = serveTick (tickIn s) := by
  rw [execTick, if_neg (by simp [State.acceptable, hb]), if_pos ht]

/-- With nothing that can move and no line left, the state stays. -/
theorem step_of_nothing_moves {s : State} (hw : s.cfg.wf = true) (hr : s.engineReady = false) (hb : s.busReady = false)
    (ha : s.acceptable = false) (hs : s.script = []) : step s = .next s := by
  rw [step_lineLands hw (by simp [State.lineLands, hr, hb, ha])]
  simp [State.lineDue, quietLine, hs]

/-- Settles O19: the acceptance is a step of its own (`step_acceptTick`), and the tick it leaves accepted is served by the step and
by exec of TICK alike. -/
theorem stepAcceptsAPendingTick : Obligations.StepAcceptsAPendingTick := by
  intro s hw hu hr hb
  rw [← s.acceptable_iff]
  refine ⟨fun ha => ⟨begin .tick s, rfl, step_acceptTick hw hu hr hb ha, ?_, ?_⟩, fun ha hs => ?_⟩
  · obtain ⟨_, _, _, hf⟩ := s.acceptable_iff.mp ha
    exact step_serveTick hw hu hf rfl
  · obtain ⟨hbusy, htick, _, hf⟩ := s.acceptable_iff.mp ha
    have hevent : (tickIn s).acceptable = true := by simp [State.acceptable_iff, hbusy, htick, hf]
    calc execTick (begin .tick s) = serveTick (tickIn (begin .tick s)) :=
          execTick_accepted rfl (by simp [State.tickAccepted, hf])
      _ = serveTick (begin .tick (tickIn s)) := rfl
      _ = execTick s := (execTick_acceptable hu hevent).symm
  · exact step_of_nothing_moves hw hr hb (by simpa using ha) hs

theorem tickIn_of_disarmed {s : State} (h : s.tickEn = false) : tickIn s = s := by
  cases s; simp_all [tickIn]

theorem tickIn_of_armed {s : State} (h : s.tickEn = true) : tickIn s = { s with tickPend := true } := by
  simp [tickIn, h]

/-- A tick line that lands is TIMER's event, whether the block is busy or not. -/
theorem step_tick_line {s : State} {m : Moment} {rest : List Line} (hw : s.cfg.wf = true) (hl : s.lineLands = true)
    (hs : s.script = ⟨m, .tick⟩ :: rest) : step s = .next (tickIn { s with script := rest }) := by
  rw [step_eq_landLine hw hl hs (.inr (by simp [Move.waits])), landLine, hs]

/-- Settles O54: the instruction and the line are the event alone, which TICK_EN decides. -/
theorem aTickIsIgnoredOrStaysPending : Obligations.ATickIsIgnoredOrStaysPending := by
  intro s
  refine ⟨fun hseq => ?_, fun m rest hw hl hs => ⟨fun he => ?_, fun he => ?_⟩⟩
  · have hn : s.tickAccepted = false := by simp [State.tickAccepted, hseq]
    refine ⟨fun he => ?_, fun he hb => ?_⟩
    · exact (execTick_pending (by simp [State.acceptable, he]) hn).trans (congrArg Host.Outcome.next (tickIn_of_disarmed he))
    · exact (execTick_pending (by simp [State.acceptable, hb]) hn).trans (congrArg Host.Outcome.next (tickIn_of_armed he))
  · exact (step_tick_line hw hl hs).trans (congrArg Host.Outcome.next (tickIn_of_disarmed he))
  · exact (step_tick_line hw hl hs).trans (congrArg Host.Outcome.next (tickIn_of_armed he))

end Sys2Proof.Machine
end
